-- ==== Sys2Proof/Word.lean ====
section
/-! DEFINITION. The plain values of the PS16: bytes, epochs, services, station numbers, ranks, saturating counters and
the sixteen-entry table every block is built from. -/

namespace Sys2Proof

/-- One byte of a frame or of the host port. -/
abbrev Byte := BitVec 8

/-- A known epoch, 0 to 255 (R9). An epoch that may be UNKNOWN is an `Option Epoch`. -/
abbrev Epoch := BitVec 8

/-- A service number, S0 to S15 (R2). -/
abbrev Service := Fin 16

/-- A station ID, 0 to 15 (R86). -/
abbrev StationId := Fin 16

/-- A rank, 0 to 7; 0 means not a candidate (R11). -/
abbrev Rank := Fin 8

/-- A count of 16 bits (R1) or a 16-bit saturating counter (R100, R128, R146). -/
abbrev Word16 := BitVec 16

/-- The sixteen-entry table, indexed by service or by station ID (R2, R86). -/
abbrev Table (α : Type) := Vector α 16

/-- The services, and the station IDs, in ascending order. -/
def allSixteen : List (Fin 16) := List.finRange 16

/-- The entry at an index. -/
def look {α : Type} (t : Table α) (i : Fin 16) : α := t[i.val]

/-- The table with one entry replaced. -/
def place {α : Type} (t : Table α) (i : Fin 16) (x : α) : Table α := t.set i.val x

/-- The table whose entry at each index is given by a function. -/
def tabulate {α : Type} (f : Fin 16 → α) : Table α := Vector.ofFn f

/-- The table that holds one value everywhere. -/
def uniform {α : Type} (x : α) : Table α := Vector.replicate 16 x

@[simp] theorem look_place_same {α : Type} (t : Table α) (i : Fin 16) (x : α) : look (place t i x) i = x := by
  simp [look, place]

theorem look_place_ne {α : Type} (t : Table α) {i j : Fin 16} (x : α) (h : j ≠ i) : look (place t i x) j = look t j := by
  have : i.val ≠ j.val := fun e => h (Fin.ext e.symm)
  simp [look, place, this]

theorem look_place {α : Type} (t : Table α) (i j : Fin 16) (x : α) :
    look (place t i x) j = if j = i then x else look t j := by
  split
  · next h => simp [h]
  · next h => exact look_place_ne t x h

@[simp] theorem look_tabulate {α : Type} (f : Fin 16 → α) (i : Fin 16) : look (tabulate f) i = f i := by
  simp [look, tabulate]

@[simp] theorem look_uniform {α : Type} (x : α) (i : Fin 16) : look (uniform x) i = x := by
  simp [look, uniform]

/-- Two tables with the same entries are the same table. -/
theorem table_ext {α : Type} {t u : Table α} (h : ∀ i, look t i = look u i) : t = u := by
  apply Vector.ext
  intro i hi
  exact h ⟨i, hi⟩

@[simp] theorem mem_allSixteen (i : Fin 16) : i ∈ allSixteen := by simp [allSixteen]

/-- A saturating counter stays at its largest value instead of wrapping (00_scope.md, Table 0-1). -/
def satAdd {w : Nat} (c : BitVec w) (n : Nat) : BitVec w :=
  if c.toNat + n < 2 ^ w then BitVec.ofNat w (c.toNat + n) else BitVec.allOnes w

/-- A saturating counter raised by 1. -/
def satInc {w : Nat} (c : BitVec w) : BitVec w := satAdd c 1

end Sys2Proof
end

