-- ==== Sys2Proof/Syntax.lean ====
section
/-! DEFINITION. The commands of the PS16: one constructor for each row of spec/opcode_table.json, with the row's
operands, and the small types the operands are made of. -/

namespace Sys2Proof

/-- The two polarities of a pulse on BP and BN (R118). -/
inductive Polarity where
  | positive
  | negative
deriving DecidableEq, Repr

/-- What the line carries in one bit time (R118). -/
inductive Symbol where
  | empty
  | pulse (p : Polarity)
deriving DecidableEq, Repr

/-- The plan bytes of the Plan window, 12h to 17h of Table 11-5 (R149). -/
inductive PlanField where
  | flags
  | wtr
  | rank
  | holdOff
  | version
  | expectedPeers
deriving DecidableEq, Repr

/-- The two bytes of the IRQ control window, 0Fh and 10h of Table 11-5. -/
inductive IrqRegister where
  | enable
  | classMask
deriving DecidableEq, Repr

/-- Where a host data byte is taken: a 7-bit address, or past the end of a window, where the address stays (R148). -/
inductive HostAddress where
  | at (a : BitVec 7)
  | pastEnd
deriving DecidableEq, Repr

/-- The two levels on RST (R117): low holds the part in hard reset; `high` is RST returning high, or power-on
completing, with the levels that then stand on ID3 to ID0, ID0 being the least significant bit. -/
inductive RstLevel where
  | low
  | high (id : StationId)
deriving DecidableEq, Repr

/-- The commands of the PS16. A `line` operand is what the line carries in the bit times the command takes in, the
oldest first, up to and including the one in which the happening comes about (log entry 4). -/
inductive Instr where
  /-- HARD_RESET (R117): RST goes low, or RST returns high and power-on completes. -/
  | hardReset (rst : RstLevel)
  /-- TIMEBASE_TICK (R1). -/
  | timebaseTick
  /-- RAW_CONDITION_CHANGE (R75, R76): SFn and SDn take these levels. -/
  | rawConditionChange (n : Service) (sf sd : Bool)
  /-- CONDITION_TIMER_RUNS_OUT (R77). -/
  | conditionTimerRunsOut (n : Service)
  /-- WTR_TIMER_RUNS_OUT (R56). -/
  | wtrTimerRunsOut (n : Service)
  /-- RETRY_HOLD_RUNS_OUT (R4). -/
  | retryHoldRunsOut (n : Service)
  /-- CLAIM_WINDOW_END (R28). -/
  | claimWindowEnd (n : Service)
  /-- SILENCE_TIMER_RUNS_OUT (R96). -/
  | silenceTimerRunsOut (p : StationId)
  /-- LISTEN_TIMER_RUNS_OUT (R109). -/
  | listenTimerRunsOut
  /-- STATUS_PERIOD_TIMER_RUNS_OUT (R108). -/
  | statusPeriodTimerRunsOut
  /-- FRAME_RECEIVED (R123, R124): the last bit time of `line` is the final violation of an end delimiter. -/
  | frameReceived (line : List Symbol)
  /-- CODE_ERROR (R121, R122): the last bit time of `line` is the code error. -/
  | codeError (line : List Symbol)
  /-- ATTEMPT_START (R136). -/
  | attemptStart
  /-- ATTEMPT_CLEAN (R140): the line carried what was driven, so the command needs no line of its own (R137). -/
  | attemptClean
  /-- ATTEMPT_COLLIDED (R141): `line` is the line from the attempt's first bit time to that of the finding (R137). -/
  | attemptCollided (line : List Symbol)
  /-- ATTEMPT_DEAF (R143): the line was empty in the first eight bit times of the attempt (R137). -/
  | attemptDeaf
  /-- BACK_OFF_END (R141): `line` is the line in the bit times that were left of the back-off. -/
  | backOffEnd (line : List Symbol)
  /-- START (R106). -/
  | start
  /-- LEAVE (R111). -/
  | leave
  /-- RESTART (R116). -/
  | restart
  /-- FORCE (R82), on the service that the command argument names (R150). -/
  | force
  /-- LOCKOUT (R83), on the service that the command argument names (R150). -/
  | lockout
  /-- CLEAR (R84), on the service that the command argument names (R150). -/
  | clear
  /-- CLEAR_COUNTERS (R150). -/
  | clearCounters
  /-- UNKNOWN_COMMAND_CODE (R150): a byte written to the command code that names no command. -/
  | unknownCommandCode (code : Byte)
  /-- PLAN_SELECT_WRITE (R149). -/
  | planSelectWrite (value : Byte)
  /-- PLAN_FIELD_WRITE (R149). -/
  | planFieldWrite (field : PlanField) (value : Byte)
  /-- SERVICE_SNAPSHOT_SELECT (R151). -/
  | serviceSnapshotSelect (value : Byte)
  /-- PEER_SNAPSHOT_SELECT (R151). -/
  | peerSnapshotSelect (value : Byte)
  /-- COUNTER_SNAPSHOT_SELECT (R151). -/
  | counterSnapshotSelect (value : Byte)
  /-- IRQ_CONTROL_WRITE (R148, R155). -/
  | irqControlWrite (reg : IrqRegister) (value : Byte)
  /-- EVENT_POP (R154). -/
  | eventPop
  /-- REGISTER_WRITE (R148): a write to an address that no other row names. -/
  | registerWrite (addr : HostAddress) (value : Byte)
  /-- LINE_IDLE (R120): the last bit time of `line` is the twelfth empty one. -/
  | lineIdle (line : List Symbol)
  /-- TRANSACTION_BEGIN (R147): HSEL goes low. -/
  | transactionBegin
  /-- ADDRESS_BYTE (R147, R158): bit 7 is the direction, bits 6 to 0 the address. -/
  | addressByte (value : Byte)
  /-- TRANSACTION_END (R147): HSEL goes high. -/
  | transactionEnd
deriving DecidableEq, Repr

end Sys2Proof
end

