-- ==== Sys2Proof/Decode.lean ====
section
/-! DEFINITION. The words of the opcode table. -/

namespace Sys2Proof

/-- The command that a word spells by the table's bits: no row of the PS16's table gives bits, so no word spells one (log
entry 21). The bytes of the host port reach the part through its own rows (R147, R150). -/
def decodeTableWord (_nbits _w : Nat) : Option Instr := none

end Sys2Proof
end

