-- ==== Sys2Proof/Config.lean ====
section
/-! DEFINITION. The constants of the PS16 and its open values. -/

namespace Sys2Proof.Config

/-- The claim window, in milliseconds (R21, R24). -/
def claimWindow : Nat := 8
/-- The retry hold, in milliseconds (R4, R26, R31, R46, R65). -/
def retryHold : Nat := 100
/-- The silence timer, in milliseconds (R91, R92). -/
def silence : Nat := 20
/-- The listen timer, in milliseconds (R106). -/
def listen : Nat := 60
/-- The status period timer, in milliseconds (R108). -/
def statusPeriod : Nat := 4
/-- A condition that improves must hold for at least this many milliseconds (R76). -/
def improveMinimum : Nat := 10
/-- Timebase ticks in one second of a WTR timer (R4). -/
def ticksPerSecond : Nat := 1000
/-- Empty bit times that make the line idle (R120). -/
def idleBits : Nat := 12
/-- Content bits of the longest frame of any kind, 87 bytes (R157). -/
def longestContent : Nat := 696
/-- Bits a complete frame leaves in the assembled content after its own: the closing one and the zero before the final
violation (R123). DEDUCED (log entry 8): the overrun test of R122 allows these two beyond `longestContent`. -/
def closingBits : Nat := 2
/-- Content bits of the shortest frame that passes the length test, a header and a CRC (R124, R157). -/
def shortestContent : Nat := 48
/-- Bit times in one back-off slot (R141). -/
def slot : Nat := 32
/-- Attempts after which a frame is given up (R142). -/
def attemptLimit : Nat := 8
/-- DEAF attempts in a row after which MUTED is asked for (R143). -/
def deafLimit : Nat := 3
/-- Records the Event Queue holds at most (R153). -/
def eventRoom : Nat := 32
/-- Periods of CLK in one Timebase tick (R1, R159). -/
def clkPerTick : Nat := 16000
/-- Periods of CLK in one bit time of the coordination bus (R159). -/
def clkPerBit : Nat := 8
/-- The differential voltage, in millivolts, that a pulse exceeds at the receiver (R159, Table 11-12). -/
def receiveThreshold : Int := 400

/-- The timestamp of the NONE record that a pop of an empty Event Queue puts into the latch. The spec gives that record's
kind and its absent optional fields (R154) and states no timestamp for it: a FREE VALUE, one for each use, without a body
(log entry 7). -/
opaque noneTimestamp : Nat → Word16

/-- The level driven on HSDO at a falling edge of HSCK with HSEL low at which no fetched byte is shifted out. The part
drives HSDO at each falling edge (R158); the spec states the level for a fetched byte (R147, R158), and none for the
address byte, for a write and before the first fetch: a FREE VALUE without a body (log entry 28). -/
opaque hsdoUnstated : Nat → Nat → Bool

end Sys2Proof.Config
end

