-- ==== Sys2Proof/Machine/State.lean ====
section
/-! DEFINITION. The state of the PS16, block by block (Table 1-1 of spec/00_scope.md), as plain data, and the machine
right after reset. -/

namespace Sys2Proof.Machine

/-! ## Values -/

/-- The station phase (R103). -/
inductive Phase where
  | config
  | listen
  | active
  | leaving
  | detached
  | muted
deriving DecidableEq, Repr

/-- A raw or debounced condition (R75). -/
inductive Condition where
  | ok
  | deg
  | fail
deriving DecidableEq, Repr

/-- A published grade (R79). -/
inductive Grade where
  | ok
  | deg
  | fail
  | unav
deriving DecidableEq, Repr

/-- The class of a service (R79). -/
inductive SvcClass where
  | normal
  | force
deriving DecidableEq, Repr

/-- An operator request (R81). -/
inductive Request where
  | none
  | force
  | lockout
deriving DecidableEq, Repr

/-- Grade, class and rank of one service, as the service byte of Table 11-2 carries them. -/
structure ServiceByte where
  grade : Grade
  cls : SvcClass
  rank : Rank
deriving DecidableEq, Repr

/-- The keys by which candidates and claims are ordered (R13). -/
structure ClaimTuple where
  cls : SvcClass
  grade : Grade
  rank : Rank
  id : StationId
deriving DecidableEq, Repr

/-- The mode of a claim; the target holder is present for TAKEOVER only (Table 1-3). -/
inductive ClaimMode where
  | vacant
  | takeover (target : StationId)
deriving DecidableEq, Repr

/-- Why a RELEASE entry was queued (R49). -/
inductive ReleaseReason where
  | handover
  | lockout
  | leave
  | withdraw
deriving DecidableEq, Repr

/-- Why an OBJECT entry was queued (R44, R47, R73). -/
inductive ObjectCause where
  | ownerLive
  | forceHeld
  | notBetter
  | staleEpoch
deriving DecidableEq, Repr

/-! ## Frames (Table 8-3) -/

/-- The phase a STATUS may publish (R87). -/
inductive StatusPhase where
  | listen
  | active
  | leaving
deriving DecidableEq, Repr

/-- The content of a STATUS, which is also the published data of a peer (R87). -/
structure StatusBody where
  phase : StatusPhase
  isolated : Bool
  services : Table ServiceByte
  held : List (Service × Epoch)
deriving DecidableEq, Repr

/-- The content of a CLAIM. -/
structure ClaimBody where
  service : Service
  epoch : Epoch
  mode : ClaimMode
  claimed : ServiceByte
deriving DecidableEq, Repr

/-- One entry of a RELEASE list. -/
structure ReleaseEntry where
  service : Service
  epoch : Epoch
  reason : ReleaseReason
deriving DecidableEq, Repr

/-- One entry of an OBJECT list. -/
structure ObjectEntry where
  service : Service
  claimant : StationId
  claimEpoch : Epoch
  holderEpoch : Epoch
  cause : ObjectCause
deriving DecidableEq, Repr

/-- The four frame kinds. -/
inductive FrameKind where
  | status
  | claim
  | release
  | object
deriving DecidableEq, Repr

/-- The body of a frame. -/
inductive FrameBody where
  | status (b : StatusBody)
  | claim (b : ClaimBody)
  | release (entries : List ReleaseEntry)
  | object (entries : List ObjectEntry)
deriving DecidableEq, Repr

/-- A good frame by its fields (Table 8-3). -/
structure Frame where
  sender : StationId
  seq : Byte
  checksum : Word16
  body : FrameBody
deriving DecidableEq, Repr

/-! ## Ownership Controller -/

/-- The state of a Service Table entry (Table 1-4). -/
inductive EntryState where
  | vacant
  | held
  | remote
  | orphaned
  | claiming
  | watching
deriving DecidableEq, Repr

/-- The sent flag of an own claim (Table 1-3). -/
inductive SentFlag where
  | queued
  | sent
deriving DecidableEq, Repr

/-- What the target holder's STATUS frames said since the record was created (R3); it has a meaning in a TAKEOVER
record only. -/
inductive HolderListing where
  | notHeard
  | listed
  | notListed
deriving DecidableEq, Repr

/-- A pending claim record (Table 1-3). `sent` is present in own claims only; `window` is the window remaining in
milliseconds, present from the start of the claim window, and 0 from the tick that reached 0 until the window end is
taken (log entry 2). -/
structure ClaimRecord where
  claimant : StationId
  epoch : Epoch
  mode : ClaimMode
  claimed : ServiceByte
  sent : Option SentFlag
  window : Option Nat
  releaseHeard : Bool
  listing : HolderListing
deriving DecidableEq, Repr

/-- A WTR timer (R4): seconds remaining, Timebase ticks counted toward the next second, and whether it has reached 0
and its running out has not been taken yet (log entry 2). -/
structure WtrTimer where
  seconds : Nat
  ticks : Nat
  due : Bool
deriving DecidableEq, Repr

/-- An entry of the Service Table (Table 1-2). An epoch of `none` is UNKNOWN, an owner of `none` is NONE. -/
structure ServiceEntry where
  state : EntryState
  owner : Option StationId
  epoch : Option Epoch
  record : Option ClaimRecord
  wtr : Option WtrTimer
  retryHold : Option Nat
  changed : Word16
deriving DecidableEq, Repr

/-- The Ownership Controller: the Service Table (R2) and DRV0 to DRV15 (R42). -/
structure OwnershipController where
  entries : Table ServiceEntry
  drv : Table Bool
deriving DecidableEq, Repr

/-! ## Condition Monitor -/

/-- What the Condition Monitor holds for one service (chapter 5), with the levels of SFn and SDn. The timer is in
milliseconds; 0 from the tick that reached 0 until its running out is taken (log entry 2). -/
structure ServiceCondition where
  sf : Bool
  sd : Bool
  raw : Condition
  debounced : Condition
  timer : Option Nat
  request : Request
  grade : Grade
  cls : SvcClass
deriving DecidableEq, Repr

/-! ## Peer Monitor -/

/-- A peer state (Table 6-2). -/
inductive PeerState where
  | absent
  | arriving
  | live
  | silent
  | incompatible
  | self
deriving DecidableEq, Repr

/-- An entry of the Peer Table (Table 6-2). -/
structure PeerEntry where
  state : PeerState
  lastSeq : Option Byte
  silence : Option Nat
  inOrder : Nat
  data : Option StatusBody
  checksumSeen : Option Word16
  accepted : Word16
  lost : Word16
  duplicates : Word16
deriving DecidableEq, Repr

/-- The Peer Monitor: the Peer Table (R86), the isolated flag (R98) and the ID clash count (R99). -/
structure PeerMonitor where
  entries : Table PeerEntry
  isolated : Bool
  clashCount : Word16
deriving DecidableEq, Repr

/-! ## Station Controller -/

/-- The plan record of one service (Table 7-3); the hold-off counts in steps of 10 ms. -/
structure PlanRecord where
  defined : Bool
  revertive : Bool
  wtr : Byte
  rank : Rank
  holdOff : Byte
deriving DecidableEq, Repr

/-- The plan (R104). -/
structure Plan where
  records : Table PlanRecord
  version : Byte
  expectedPeers : Fin 16
deriving DecidableEq, Repr

/-- The Station Controller (chapter 7). -/
structure StationController where
  phase : Phase
  plan : Plan
  checksum : Word16
  listenTimer : Option Nat
  statusTimer : Option Nat
  ownId : StationId
deriving DecidableEq, Repr

/-! ## Frame Receiver -/

/-- The decoder states (Table 8-1). -/
inductive DecoderState where
  | seekIdle
  | lineIdle
  | opening
  | inFrame
deriving DecidableEq, Repr

/-- The kind of the last mark in IN_FRAME (chapter 8). -/
inductive MarkKind where
  | contentOne
  | fill
  | delimiter
deriving DecidableEq, Repr

/-- The Frame Receiver (chapter 8). `assembled` is the frame being assembled, its first bit first. -/
structure Receiver where
  receiving : Bool
  decoder : DecoderState
  emptyCount : Nat
  lastPolarity : Option Polarity
  assembled : List Bool
  overrun : Bool
  lastMark : Option MarkKind
  goodFrames : Word16
  codeErrors : Word16
  crcErrors : Word16
  formatErrors : Word16
deriving DecidableEq, Repr

/-- What one bit time brings out of the decoder (R120 to R123). -/
inductive LineEvent where
  | quiet
  | idle
  | codeError
  | frameEnd (content : List Bool) (overrun : Bool)
deriving DecidableEq, Repr

/-- How a frame is judged at its end delimiter (R124). -/
inductive FrameOutcome where
  | formatError
  | crcError
  | good (f : Frame)
deriving DecidableEq, Repr

/-! ## Transmitter -/

/-- The transmit states (Table 9-1). -/
inductive TxState where
  | ready
  | waiting
  | driving
  | backingOff
  | halted
deriving DecidableEq, Repr

/-- A queued frame of the urgent class with its list (R131, R133). -/
inductive UrgentFrame where
  | release (entries : List ReleaseEntry)
  | object (entries : List ObjectEntry)
deriving DecidableEq, Repr

/-- The Transmit Queue (R131), class by class, each earliest queued first. A queued CLAIM carries its service and claim
epoch (R134); a queued STATUS carries nothing (R132). -/
structure TxQueue where
  urgent : List UrgentFrame
  claims : List (Service × Epoch)
  status : Bool
deriving DecidableEq, Repr

/-- What a frame in flight is. -/
inductive TxFrame where
  | status
  | claim (service : Service) (epoch : Epoch)
  | release (entries : List ReleaseEntry)
  | object (entries : List ObjectEntry)
deriving DecidableEq, Repr

/-- The frame in flight (chapter 9): content and sequence number are absent until its first attempt. -/
structure Flight where
  frame : TxFrame
  content : Option (List Byte)
  seq : Option Byte
  attempts : Nat
deriving DecidableEq, Repr

/-- The Transmitter (chapter 9). -/
structure Transmitter where
  state : TxState
  queue : TxQueue
  flight : Option Flight
  backOff : Option Nat
  nextSeq : Byte
  deafCount : Nat
  framesSent : Word16
  collisions : Word16
  deafAttempts : Word16
  giveUps : Word16
deriving DecidableEq, Repr

/-- How an attempt is judged (R137). -/
inductive AttemptOutcome where
  | clean
  | collided
  | deaf
deriving DecidableEq, Repr

/-! ## Host Port -/

/-- The event kinds of Table 10-4, with NONE. -/
inductive EventKind where
  | none
  | svcHeld
  | svcDropped
  | ownerChanged
  | claimFailed
  | dualHold
  | gradeChanged
  | peerLive
  | peerSilent
  | peerLeft
  | peerIncompatible
  | idClash
  | phaseChanged
  | isolated
  | rejoined
  | txGiveUp
  | muted
  | eventsLost
deriving DecidableEq, Repr

/-- Why a service was dropped (Table 3-1). -/
inductive DropReason where
  | handover
  | lockout
  | leave
  | muted
  | superseded
deriving DecidableEq, Repr

/-- Why an own claim failed (Table 2-3). -/
inductive FailCause where
  | timeout
  | objected (cause : ObjectCause)
  | beaten
  | giveUp
  | withdrawn
deriving DecidableEq, Repr

/-- The ground of a won dual hold (R66). -/
inductive DualGround where
  | epoch
  | tuple
deriving DecidableEq, Repr

/-- The cause of MUTED (R114). -/
inductive MuteCause where
  | deaf
  | idClash
deriving DecidableEq, Repr

/-- The detail of an event record (Table 11-10). -/
inductive Detail where
  | vacantMode
  | takeoverMode
  | dropped (r : DropReason)
  | claimFailed (c : FailCause)
  | dualHold (g : DualGround)
  | grade (g : Grade)
  | phase (p : Phase)
  | rejoinedByPeer
  | frame (k : FrameKind)
  | muted (c : MuteCause)
  | count (n : Byte)
deriving DecidableEq, Repr

/-- An event record (Table 10-3). -/
structure EventRecord where
  kind : EventKind
  timestamp : Word16
  service : Option Service
  peer : Option StationId
  epoch : Option Epoch
  detail : Option Detail
deriving DecidableEq, Repr

/-- A command result (R150). -/
inductive CommandResult where
  | done
  | refusedPhase
  | refusedArg
deriving DecidableEq, Repr

/-- The direction of a transaction (R147). -/
inductive Direction where
  | read
  | write
deriving DecidableEq, Repr

/-- The transaction state with the current address and direction (R147). -/
inductive Transaction where
  | idle
  | address
  | data (dir : Direction) (cur : HostAddress)
deriving DecidableEq, Repr

/-- The event class mask (R153): a class is recorded while its flag is on. -/
structure ClassMask where
  service : Bool
  condition : Bool
  peer : Bool
  station : Bool
deriving DecidableEq, Repr

/-- A snapshot buffer: the bytes of the copy, laid out as Table 11-5, 11-6 or 11-8 gives, with the select value that
made it (R151). -/
structure Snapshot (n : Nat) where
  select : Fin 16
  bytes : Vector Byte n
deriving DecidableEq, Repr

/-- The Host Port (chapter 10), with the IRQ output (R155), the command code byte last written (Table 10-1) and the byte
last fetched for HSDO in the transaction (R147). -/
structure HostPort where
  txn : Transaction
  planSelect : Service
  argument : Byte
  code : Byte
  result : CommandResult
  irqEnable : Bool
  mask : ClassMask
  serviceSnap : Snapshot 18
  peerSnap : Snapshot 49
  counterSnap : Snapshot 24
  events : List EventRecord
  lost : Byte
  latch : EventRecord
  irq : Bool
  fetched : Option Byte
deriving DecidableEq, Repr

/-! ## The whole part -/

/-- The PS16. `pending` is the queue of commands that wait, the first one at the front; `freeCount` is the model's own
count of the free values used so far (log entry 7). `rstLow` tells that RST is held low (R117). -/
structure State where
  timebase : Word16
  oc : OwnershipController
  cond : Table ServiceCondition
  peers : PeerMonitor
  station : StationController
  rx : Receiver
  tx : Transmitter
  host : HostPort
  rstLow : Bool
  pending : List Instr
  freeCount : Nat
deriving DecidableEq, Repr

/-- The model has no fault: the spec gives every command an effect, and a happening that the state does not allow is no
happening (log entry 1). -/
inductive Fault where
deriving DecidableEq, Repr

/-- The refusals. -/
inductive Refusal where
  /-- Raised by an arm of `exec` whose command has no meaning yet: no arm raises it. Safe. -/
  | notModelled (mnemonic : String)
deriving DecidableEq, Repr

/-! ## Reset values -/

/-- The raw condition that the levels of SFn and SDn give (R75). -/
def rawOf (sf sd : Bool) : Condition :=
  if sf then .fail else if sd then .deg else .ok

/-- A Service Table entry after a reset, with its last change timestamp (R19). -/
def resetEntry (now : Word16) : ServiceEntry :=
  { state := .vacant, owner := none, epoch := none, record := none, wtr := none, retryHold := none, changed := now }

/-- The Ownership Controller after a reset: every DRVn off (R19, R42). -/
def resetOwnership (now : Word16) : OwnershipController :=
  { entries := uniform (resetEntry now), drv := uniform false }

/-- The plan record after hard reset (Table 7-3). -/
def resetPlanRecord : PlanRecord :=
  { defined := false, revertive := false, wtr := 1, rank := 0, holdOff := 0 }

/-- The plan after hard reset (R104). -/
def resetPlan : Plan :=
  { records := uniform resetPlanRecord, version := 0, expectedPeers := 0 }

/-- A peer entry after hard reset (R101): SELF at the own ID, ABSENT elsewhere. -/
def resetPeer (own p : StationId) : PeerEntry :=
  { state := if p = own then .self else .absent, lastSeq := none, silence := none, inOrder := 0, data := none,
    checksumSeen := none, accepted := 0, lost := 0, duplicates := 0 }

/-- The Frame Receiver after hard reset (R130). -/
def resetReceiver : Receiver :=
  { receiving := false, decoder := .seekIdle, emptyCount := 0, lastPolarity := none, assembled := [], overrun := false,
    lastMark := none, goodFrames := 0, codeErrors := 0, crcErrors := 0, formatErrors := 0 }

/-- The Transmit Queue with nothing in it. -/
def emptyQueue : TxQueue := { urgent := [], claims := [], status := false }

/-- The Transmitter after hard reset (R145). -/
def resetTransmitter : Transmitter :=
  { state := .ready, queue := emptyQueue, flight := none, backOff := none, nextSeq := 0, deafCount := 0,
    framesSent := 0, collisions := 0, deafAttempts := 0, giveUps := 0 }

/-- The NONE record (R154) with a timestamp, which the spec does not state (log entry 7). -/
def noneRecord (timestamp : Word16) : EventRecord :=
  { kind := .none, timestamp := timestamp, service := none, peer := none, epoch := none, detail := none }

/-- The Host Port after hard reset (R156). The latch's timestamp and the command code are DESIGN CHOICEs (log entries 7
and 6). -/
def resetHostPort : HostPort :=
  { txn := .idle, planSelect := 0, argument := 0, code := 0, result := .done, irqEnable := false,
    mask := { service := true, condition := true, peer := true, station := true },
    serviceSnap := { select := 0, bytes := Vector.replicate 18 0 },
    peerSnap := { select := 0, bytes := Vector.replicate 49 0 },
    counterSnap := { select := 0, bytes := Vector.replicate 24 0 },
    events := [], lost := 0, latch := noneRecord 0, irq := false, fetched := none }

/-- The Condition Monitor of one service after hard reset, with the levels of its pins (R85): every service is undefined
then, so every published grade is UNAV. -/
def resetCondition (sf sd : Bool) : ServiceCondition :=
  { sf := sf, sd := sd, raw := rawOf sf sd, debounced := .ok, timer := none, request := .none, grade := .unav,
    cls := .normal }

/-- The part after hard reset, RST high again, with an own ID and the levels of the SF and SD pins (R117). -/
def hardResetState (id : StationId) (pins : Table (Bool × Bool)) : State :=
  { timebase := 0
    oc := resetOwnership 0
    cond := tabulate fun n => resetCondition (look pins n).1 (look pins n).2
    peers := { entries := tabulate (resetPeer id), isolated := false, clashCount := 0 }
    station :=
      { phase := .config, plan := resetPlan, checksum := 0, listenTimer := none, statusTimer := none, ownId := id }
    rx := resetReceiver
    tx := resetTransmitter
    host := resetHostPort
    rstLow := false
    pending := []
    freeCount := 0 }

/-- The machine right after reset. The own ID and the pin levels are those of the board, which the spec does not fix: 0
and low here, a DESIGN CHOICE (log entry 5); a HARD_RESET command brings the real ID. -/
def State.reset : State := hardResetState 0 (uniform (false, false))

end Sys2Proof.Machine
end

