-- ==== Sys2Proof/Machine/Operands.lean ====
section
/-! DEFINITION. The byte codes of the fields that travel on the bus or at the host port (Tables 11-1 to 11-10), in both
directions where both are read. -/

namespace Sys2Proof.Machine

/-- A small number as a byte. -/
def byteOf (n : Nat) : Byte := BitVec.ofNat 8 n

/-- The high byte of a 16-bit value; multi-byte fields go high byte first (R157, R158). -/
def hiByte (w : Word16) : Byte := BitVec.ofNat 8 (w.toNat / 256)

/-- The low byte of a 16-bit value. -/
def loByte (w : Word16) : Byte := BitVec.ofNat 8 (w.toNat % 256)

/-- The 16-bit value of two bytes, high byte first. -/
def wordOf (hi lo : Byte) : Word16 := BitVec.ofNat 16 (hi.toNat * 256 + lo.toNat)

/-- A service number or station ID byte; above 0Fh it names none (R157). -/
def indexOfByte (b : Byte) : Option (Fin 16) :=
  if h : b.toNat < 16 then some ⟨b.toNat, h⟩ else none

/-- A service number or station ID as a byte. -/
def byteOfIndex (i : Fin 16) : Byte := byteOf i.val

/-- The grade codes of Table 11-2. -/
def Grade.code : Grade → Nat
  | .ok => 0
  | .deg => 1
  | .fail => 2
  | .unav => 3

/-- The grade of a nibble; 4h to Fh are format errors (R157). -/
def gradeOfCode : Nat → Option Grade
  | 0 => some .ok
  | 1 => some .deg
  | 2 => some .fail
  | 3 => some .unav
  | _ => none

/-- The condition codes of Table 11-6. -/
def Condition.code : Condition → Nat
  | .ok => 0
  | .deg => 1
  | .fail => 2

/-- The request codes of Table 11-6. -/
def Request.code : Request → Nat
  | .none => 0
  | .force => 1
  | .lockout => 2

/-- The class bit of Table 11-2. -/
def SvcClass.code : SvcClass → Nat
  | .normal => 0
  | .force => 1

/-- The service byte of Table 11-2. -/
def ServiceByte.encode (b : ServiceByte) : Byte :=
  byteOf (b.grade.code * 16 + b.cls.code * 8 + b.rank.val)

/-- The fields of a service byte; `none` for a grade nibble that codes no grade (R125, R157). -/
def decodeServiceByte (b : Byte) : Option ServiceByte :=
  (gradeOfCode (b.toNat / 16)).map fun g =>
    { grade := g
      cls := if b.toNat / 8 % 2 = 1 then .force else .normal
      rank := ⟨b.toNat % 8, Nat.mod_lt _ (by decide)⟩ }

/-- The phase codes of a STATUS (Table 11-3). -/
def StatusPhase.code : StatusPhase → Nat
  | .listen => 1
  | .active => 2
  | .leaving => 3

/-- The phase of a STATUS phase byte. -/
def statusPhaseOfByte (b : Byte) : Option StatusPhase :=
  match b.toNat with
  | 1 => some .listen
  | 2 => some .active
  | 3 => some .leaving
  | _ => none

/-- A byte that codes a flag: 00h clear, 01h set (Table 11-3). -/
def flagOfByte (b : Byte) : Option Bool :=
  match b.toNat with
  | 0 => some false
  | 1 => some true
  | _ => none

/-- A flag as a number. -/
def bit (b : Bool) : Nat := if b then 1 else 0

/-- The RELEASE reason codes (Table 11-3). -/
def ReleaseReason.code : ReleaseReason → Nat
  | .handover => 1
  | .lockout => 2
  | .leave => 3
  | .withdraw => 4

/-- The reason of a RELEASE reason byte. -/
def reasonOfByte (b : Byte) : Option ReleaseReason :=
  match b.toNat with
  | 1 => some .handover
  | 2 => some .lockout
  | 3 => some .leave
  | 4 => some .withdraw
  | _ => none

/-- The OBJECT cause codes (Table 11-3). -/
def ObjectCause.code : ObjectCause → Nat
  | .ownerLive => 1
  | .forceHeld => 2
  | .notBetter => 3
  | .staleEpoch => 4

/-- The cause of an OBJECT cause byte. -/
def causeOfByte (b : Byte) : Option ObjectCause :=
  match b.toNat with
  | 1 => some .ownerLive
  | 2 => some .forceHeld
  | 3 => some .notBetter
  | 4 => some .staleEpoch
  | _ => none

/-- The kind nibbles of Table 11-1. -/
def FrameKind.code : FrameKind → Nat
  | .status => 4
  | .claim => 2
  | .release => 6
  | .object => 7

/-- The kind of a frame body. -/
def FrameBody.kind : FrameBody → FrameKind
  | .status _ => .status
  | .claim _ => .claim
  | .release _ => .release
  | .object _ => .object

/-- The kind of a frame in flight. -/
def TxFrame.kind : TxFrame → FrameKind
  | .status => .status
  | .claim _ _ => .claim
  | .release _ => .release
  | .object _ => .object

/-- The phase codes of the Station status window (Table 11-5). -/
def Phase.code : Phase → Nat
  | .config => 0
  | .listen => 1
  | .active => 2
  | .leaving => 3
  | .detached => 4
  | .muted => 5

/-- The entry state codes of Table 11-6. -/
def EntryState.code : EntryState → Nat
  | .vacant => 0
  | .held => 1
  | .remote => 2
  | .orphaned => 3
  | .claiming => 4
  | .watching => 5

/-- The holder listing codes of Table 11-6. -/
def HolderListing.code : HolderListing → Nat
  | .notHeard => 0
  | .listed => 1
  | .notListed => 2

/-- The peer state codes of Table 11-8. -/
def PeerState.code : PeerState → Nat
  | .absent => 0
  | .arriving => 1
  | .live => 2
  | .silent => 3
  | .incompatible => 4
  | .self => 5

/-- The command result codes of Table 11-5. -/
def CommandResult.code : CommandResult → Nat
  | .done => 0
  | .refusedPhase => 1
  | .refusedArg => 2

/-- The event kind codes of Table 11-9. -/
def EventKind.code : EventKind → Nat
  | .none => 0x00
  | .svcHeld => 0x01
  | .svcDropped => 0x02
  | .ownerChanged => 0x03
  | .claimFailed => 0x04
  | .dualHold => 0x05
  | .gradeChanged => 0x10
  | .peerLive => 0x20
  | .peerSilent => 0x21
  | .peerLeft => 0x22
  | .peerIncompatible => 0x23
  | .idClash => 0x24
  | .phaseChanged => 0x30
  | .isolated => 0x31
  | .rejoined => 0x32
  | .txGiveUp => 0x33
  | .muted => 0x34
  | .eventsLost => 0x7F

/-- The SVC_DROPPED details of Table 11-10. -/
def DropReason.code : DropReason → Nat
  | .handover => 1
  | .lockout => 2
  | .leave => 3
  | .muted => 4
  | .superseded => 5

/-- The CLAIM_FAILED details of Table 11-10. -/
def FailCause.code : FailCause → Nat
  | .timeout => 1
  | .beaten => 2
  | .giveUp => 3
  | .withdrawn => 4
  | .objected c => 0x10 + c.code

/-- The detail codes of Table 11-10. -/
def Detail.code : Detail → Byte
  | .vacantMode => 0
  | .takeoverMode => 1
  | .dropped r => byteOf r.code
  | .claimFailed c => byteOf c.code
  | .dualHold .epoch => 1
  | .dualHold .tuple => 2
  | .grade g => byteOf g.code
  | .phase p => byteOf p.code
  | .rejoinedByPeer => 0
  | .frame k => byteOf k.code
  | .muted .deaf => 1
  | .muted .idClash => 2
  | .count n => n

/-- The commands of Table 10-2 by their codes (Table 11-9). -/
inductive Command where
  | start
  | leave
  | restart
  | force
  | lockout
  | clear
  | clearCounters
deriving DecidableEq, Repr

/-- The command of a code byte; `none` for a byte that names no command (R150). -/
def commandOfCode (code : Byte) : Option Command :=
  match code.toNat with
  | 0x01 => some .start
  | 0x02 => some .leave
  | 0x03 => some .restart
  | 0x10 => some .force
  | 0x11 => some .lockout
  | 0x12 => some .clear
  | 0x20 => some .clearCounters
  | _ => none

/-- The code byte of a command (Table 11-9). -/
def Command.code : Command → Byte
  | .start => 0x01
  | .leave => 0x02
  | .restart => 0x03
  | .force => 0x10
  | .lockout => 0x11
  | .clear => 0x12
  | .clearCounters => 0x20

/-! ## The host window map (Table 11-5) -/

/-- Address of the command argument. -/
def addrArgument : BitVec 7 := 0x0C
/-- Address of the command code. -/
def addrCode : BitVec 7 := 0x0D
/-- Address of the IRQ enable. -/
def addrIrqEnable : BitVec 7 := 0x0F
/-- Address of the event class mask. -/
def addrClassMask : BitVec 7 := 0x10
/-- Address of the plan select. -/
def addrPlanSelect : BitVec 7 := 0x11
/-- Address of the Service snapshot select. -/
def addrServiceSelect : BitVec 7 := 0x18
/-- Address of the Counter snapshot select. -/
def addrCounterSelect : BitVec 7 := 0x2B
/-- Address of the pop byte. -/
def addrPop : BitVec 7 := 0x44
/-- Address of the Peer snapshot select. -/
def addrPeerSelect : BitVec 7 := 0x4D

/-- The addresses of the plan fields. -/
def planFieldAddr : PlanField → BitVec 7
  | .flags => 0x12
  | .wtr => 0x13
  | .rank => 0x14
  | .holdOff => 0x15
  | .version => 0x16
  | .expectedPeers => 0x17

/-- The addresses of the IRQ control bytes. -/
def irqRegisterAddr : IrqRegister → BitVec 7
  | .enable => addrIrqEnable
  | .classMask => addrClassMask

/-- The last address of the window an address lies in; an address of no window is its own end (R148, Table 11-5). -/
def windowEnd (a : BitVec 7) : Nat :=
  let n := a.toNat
  if n ≤ 0x02 then 0x02
  else if n ≤ 0x0B then 0x0B
  else if n ≤ 0x0D then 0x0D
  else if n ≤ 0x0E then 0x0E
  else if n ≤ 0x10 then 0x10
  else if n ≤ 0x17 then 0x17
  else if n ≤ 0x2A then 0x2A
  else if n ≤ 0x43 then 0x43
  else if n ≤ 0x4C then 0x4C
  else if n ≤ 0x7E then 0x7E
  else n

/-- Where the address moves after a data byte: on by one within the window, and past the end after its last address,
where it stays (R148). -/
def nextAddress : HostAddress → HostAddress
  | .pastEnd => .pastEnd
  | .at a => if a.toNat < windowEnd a then .at (a + 1) else .pastEnd

end Sys2Proof.Machine
end

