-- ==== Sys2Proof/Machine/Flags.lean ====
section
/-! DEFINITION. The flags and outputs that follow other state: the isolated flag (R98), IRQ (R155), the raw condition
(R75), the published grade and class (R79), and the orders that decide between epochs and between candidates (R9, R13). -/

namespace Sys2Proof.Machine

/-- IRQ is asserted while the IRQ enable is on and the Event Queue is not empty (R155). -/
def HostPort.irqLevel (h : HostPort) : Bool := h.irqEnable && !h.events.isEmpty

/-- IRQ follows a change of the enable or of the queue in the action that makes the change (R155). -/
def HostPort.refreshIrq (h : HostPort) : HostPort := { h with irq := h.irqLevel }

/-- The published grade of a service (R79, cases 1 and 2). -/
def formGrade (plan : PlanRecord) (debounced : Condition) (request : Request) : Grade :=
  if plan.defined = false ∨ plan.rank = 0 ∨ request = .lockout then .unav
  else match debounced with
    | .ok => .ok
    | .deg => .deg
    | .fail => .fail

/-- The class of a service (R79, case 3). -/
def formClass : Request → SvcClass
  | .force => .force
  | .none => .normal
  | .lockout => .normal

/-- A condition is worse than another when it stands later in the order OK, DEG, FAIL (R75). -/
def Condition.worse (a b : Condition) : Bool := decide (b.code < a.code)

/-- Grades are ordered OK, DEG, FAIL, and UNAV counts below FAIL (R13). -/
def Grade.better (a b : Grade) : Bool := decide (a.code < b.code)

/-- How two epochs compare (R9). -/
inductive EpochOrder where
  | newer
  | equal
  | older
deriving DecidableEq, Repr

/-- `a` compared with `b` (R9): a serial comparison over half the number range. -/
def compareEpochs : Option Epoch → Option Epoch → EpochOrder
  | none, none => .equal
  | none, some _ => .older
  | some _, none => .newer
  | some a, some b =>
    if a = b then .equal else if (a - b).toNat ≤ 127 then .newer else .older

/-- The next epoch: the epoch + 1 mod 256, or 1 when it is UNKNOWN (R10). -/
def nextEpoch : Option Epoch → Epoch
  | none => 1
  | some e => e + 1

/-- FORCE is before NORMAL (R13, key 1). -/
def SvcClass.place : SvcClass → Nat
  | .force => 0
  | .normal => 1

/-- The candidate order (R13): class, grade, rank, station ID; the first key on which two tuples differ decides. -/
def ClaimTuple.better (a b : ClaimTuple) : Bool :=
  if a.cls ≠ b.cls then decide (a.cls.place < b.cls.place)
  else if a.grade ≠ b.grade then a.grade.better b.grade
  else if a.rank ≠ b.rank then decide (a.rank < b.rank)
  else decide (a.id < b.id)

/-- The tuple of a station that publishes a service byte (R13). -/
def ServiceByte.tuple (b : ServiceByte) (id : StationId) : ClaimTuple :=
  { cls := b.cls, grade := b.grade, rank := b.rank, id := id }

/-- The tuple that a claim carries (R13). -/
def ClaimRecord.tuple (r : ClaimRecord) : ClaimTuple := r.claimed.tuple r.claimant

end Sys2Proof.Machine
end

