-- ==== Sys2Proof/Machine/Ops.lean ====
section
/-! DEFINITION. The named operations of the PS16 on its registers, tables and queues: reading the tables, posting events
(R153), changing a Service Table entry with its timestamp, DRV output and OWNER_CHANGED (R4, R8, R42), and the Transmit
Queue (R131 to R135). -/

namespace Sys2Proof.Machine

/-! ## A block replaced -/

/-- The Peer Monitor takes a new content. -/
def State.withPeers (s : State) (x : PeerMonitor) : State := { s with peers := x }

/-- The Station Controller takes a new content. -/
def State.withStation (s : State) (x : StationController) : State := { s with station := x }

/-- The Frame Receiver takes a new content. -/
def State.withRx (s : State) (x : Receiver) : State := { s with rx := x }

/-- The Transmitter takes a new content. -/
def State.withTx (s : State) (x : Transmitter) : State := { s with tx := x }

/-- The Host Port takes a new content. -/
def State.withHost (s : State) (x : HostPort) : State := { s with host := x }

/-! ## Reading -/

/-- Entry `n` of the Service Table. -/
def State.entry (s : State) (n : Service) : ServiceEntry := look s.oc.entries n

/-- What the Condition Monitor holds for service `n`. -/
def State.condition (s : State) (n : Service) : ServiceCondition := look s.cond n

/-- The Peer Table entry of station `p`. -/
def State.peer (s : State) (p : StationId) : PeerEntry := look s.peers.entries p

/-- Plan record `n`, read from the Station Controller for each use (R11). -/
def State.planOf (s : State) (n : Service) : PlanRecord := look s.station.plan.records n

/-- Station `p` is a LIVE peer. -/
def State.isLive (s : State) (p : StationId) : Bool := decide ((s.peer p).state = .live)

/-- This station's published grade and class with its plan rank (R12). -/
def State.ownByte (s : State) (n : Service) : ServiceByte :=
  { grade := (s.condition n).grade, cls := (s.condition n).cls, rank := (s.planOf n).rank }

/-- This station's tuple for service `n` (R13). -/
def State.ownTuple (s : State) (n : Service) : ClaimTuple := (s.ownByte n).tuple s.station.ownId

/-- The grade, class and rank that peer `p` last published for service `n` (R12). -/
def State.published (s : State) (p : StationId) (n : Service) : Option ServiceByte :=
  (s.peer p).data.map fun b => look b.services n

/-- The number of LIVE entries (R86). -/
def State.livePeers (s : State) : Nat := (allSixteen.filter fun p => s.isLive p).length

/-- The phases in which the Transmitter accepts requests and takes frames (R131, R135). -/
def Phase.sends : Phase → Bool
  | .listen => true
  | .active => true
  | .leaving => true
  | .config => false
  | .detached => false
  | .muted => false

/-! ## Events (R153) -/

/-- The mask flag of an event's class; EVENTS_LOST has no class and is not masked (R153, Table 10-4). -/
def ClassMask.passes (m : ClassMask) : EventKind → Bool
  | .svcHeld | .svcDropped | .ownerChanged | .claimFailed | .dualHold => m.service
  | .gradeChanged => m.condition
  | .peerLive | .peerSilent | .peerLeft | .peerIncompatible | .idClash => m.peer
  | .phaseChanged | .isolated | .rejoined | .txGiveUp | .muted => m.station
  | .eventsLost | .none => true

/-- A posted event is masked, recorded, or discarded with the lost count raised (R153). -/
def HostPort.post (h : HostPort) (e : EventRecord) : HostPort :=
  if h.mask.passes e.kind = false then h
  else if h.events.length < Config.eventRoom then
    HostPort.refreshIrq { h with events := h.events ++ [e] }
  else { h with lost := satInc h.lost }

/-- A block posts an event; its timestamp is the Timebase count at the moment of posting (R1, R153). -/
def post (kind : EventKind) (service : Option Service) (peer : Option StationId) (epoch : Option Epoch)
    (detail : Option Detail) (s : State) : State :=
  s.withHost
    (s.host.post
      { kind := kind, timestamp := s.timebase, service := service, peer := peer, epoch := epoch, detail := detail })

/-! ## The Service Table (R2) -/

/-- The entry as it stands after a change: its last change timestamp takes the Timebase count when the state, owner or
epoch changed, and stays otherwise (R4). -/
def stamp (now : Word16) (old new : ServiceEntry) : ServiceEntry :=
  if new.state = old.state ∧ new.owner = old.owner ∧ new.epoch = old.epoch then { new with changed := old.changed }
  else { new with changed := now }

/-- Entry `n` takes a new content, and DRVn is on exactly when it is HELD, in the same action (R42). -/
def putEntry (n : Service) (e : ServiceEntry) (s : State) : State :=
  { s with
    oc :=
      { entries := place s.oc.entries n (stamp s.timebase (s.entry n) e)
        drv := place s.oc.drv n (decide (e.state = .held)) } }

/-- Entry `n` takes a new content, and OWNER_CHANGED is posted when its owner or epoch changes and it is HELD neither
before nor after (R8). -/
def changeEntry (n : Service) (e : ServiceEntry) (s : State) : State :=
  let old := s.entry n
  let s' := putEntry n e s
  if old.state ≠ .held ∧ e.state ≠ .held ∧ (old.owner ≠ e.owner ∨ old.epoch ≠ e.epoch) then
    post .ownerChanged (some n) e.owner e.epoch none s'
  else s'

/-- The settled state that an owner gives (R7, Table 1-5). -/
def State.settledState (s : State) : Option StationId → EntryState
  | none => .vacant
  | some p => if s.isLive p then .remote else .orphaned

/-- The entry without its record, in its settled state (R7). -/
def State.settled (s : State) (e : ServiceEntry) : ServiceEntry :=
  { e with record := none, state := s.settledState e.owner }

/-! ## The Transmit Queue (R131 to R135) -/

/-- The queue holds no frame. -/
def TxQueue.isEmpty (q : TxQueue) : Bool := q.urgent.isEmpty && q.claims.isEmpty && !q.status

/-- A list in which an entry takes the place of the one for the same service, or stands at the end (R133). -/
def joinRelease (x : ReleaseEntry) : List ReleaseEntry → List ReleaseEntry
  | [] => [x]
  | y :: rest => if y.service = x.service then x :: rest else y :: joinRelease x rest

/-- As `joinRelease`, for OBJECT entries (R133). -/
def joinObject (x : ObjectEntry) : List ObjectEntry → List ObjectEntry
  | [] => [x]
  | y :: rest => if y.service = x.service then x :: rest else y :: joinObject x rest

/-- A RELEASE entry joins the queued RELEASE, or forms a new one at the end of the urgent class (R133). -/
def addRelease (x : ReleaseEntry) : List UrgentFrame → List UrgentFrame
  | [] => [.release [x]]
  | .release es :: rest => .release (joinRelease x es) :: rest
  | .object es :: rest => .object es :: addRelease x rest

/-- An OBJECT entry joins the queued OBJECT, or forms a new one at the end of the urgent class (R133). -/
def addObject (x : ObjectEntry) : List UrgentFrame → List UrgentFrame
  | [] => [.object [x]]
  | .object es :: rest => .object (joinObject x es) :: rest
  | .release es :: rest => .release es :: addObject x rest

/-- The claim class without a CLAIM for service `n`. -/
def withoutClaim (n : Service) (claims : List (Service × Epoch)) : List (Service × Epoch) :=
  claims.filter fun c => decide (c.1 ≠ n)

/-- A STATUS request on the queue (R132). -/
def TxQueue.addStatus (q : TxQueue) : TxQueue := { q with status := true }

/-- A RELEASE entry on the queue; a queued CLAIM for its service is removed (R133). -/
def TxQueue.addRelease (q : TxQueue) (x : ReleaseEntry) : TxQueue :=
  { q with urgent := Sys2Proof.Machine.addRelease x q.urgent, claims := withoutClaim x.service q.claims }

/-- An OBJECT entry on the queue (R133). -/
def TxQueue.addObject (q : TxQueue) (x : ObjectEntry) : TxQueue :=
  { q with urgent := Sys2Proof.Machine.addObject x q.urgent }

/-- A CLAIM request on the queue (R134). -/
def TxQueue.addClaim (q : TxQueue) (n : Service) (e : Epoch) : TxQueue :=
  { q with claims := withoutClaim n q.claims ++ [(n, e)] }

/-- The Transmitter accepts a request into its queue in LISTEN, ACTIVE and LEAVING; elsewhere it changes nothing
(R131). -/
def enqueue (f : TxQueue → TxQueue) (s : State) : State :=
  if s.station.phase.sends then s.withTx { s.tx with queue := f s.tx.queue } else s

/-- The head of the queue and the queue without it (R131). -/
def TxQueue.takeHead (q : TxQueue) : Option (TxFrame × TxQueue) :=
  match q.urgent, q.claims, q.status with
  | .release es :: rest, _, _ => some (.release es, { q with urgent := rest })
  | .object es :: rest, _, _ => some (.object es, { q with urgent := rest })
  | [], (n, e) :: rest, _ => some (.claim n e, { q with claims := rest })
  | [], [], true => some (.status, { q with status := false })
  | [], [], false => none

/-- A READY Transmitter takes the head of the queue as the frame in flight and becomes WAITING (R135). -/
def takeNext (s : State) : State :=
  if s.station.phase.sends ∧ s.tx.state = .ready then
    match s.tx.queue.takeHead with
    | some (f, q) =>
      s.withTx
        { s.tx with
          state := .waiting, queue := q, flight := some { frame := f, content := none, seq := none, attempts := 0 } }
    | none => s
  else s

/-- A request to the Transmitter: it is queued, and taken at once by a READY Transmitter (R135). -/
def request (f : TxQueue → TxQueue) (s : State) : State := takeNext (enqueue f s)

/-- A STATUS request (R132). -/
def requestStatus (s : State) : State := request TxQueue.addStatus s

/-- A RELEASE entry is queued (R49, R133). -/
def requestRelease (n : Service) (e : Epoch) (reason : ReleaseReason) (s : State) : State :=
  request (fun q => q.addRelease { service := n, epoch := e, reason := reason }) s

/-- An OBJECT entry is queued (R133). -/
def requestObject (x : ObjectEntry) (s : State) : State := request (fun q => q.addObject x) s

/-- A CLAIM is queued (R20, R134). -/
def requestClaim (n : Service) (e : Epoch) (s : State) : State := request (fun q => q.addClaim n e) s

/-! ## Small updates -/

/-- The Peer Table entry of station `p` takes a new content. -/
def putPeer (p : StationId) (e : PeerEntry) (s : State) : State :=
  s.withPeers { s.peers with entries := place s.peers.entries p e }

/-- What the Condition Monitor holds for service `n` takes a new content. -/
def putCondition (n : Service) (c : ServiceCondition) (s : State) : State :=
  { s with cond := place s.cond n c }

/-- The station phase changes. -/
def setPhase (p : Phase) (s : State) : State := s.withStation { s.station with phase := p }

/-- The command result is set (R150). -/
def setResult (r : CommandResult) (s : State) : State := s.withHost { s.host with result := r }

/-- An operation on each service, or each station, in ascending order. -/
def forEach (f : Fin 16 → State → State) (s : State) : State := allSixteen.foldl (fun s n => f n s) s

end Sys2Proof.Machine
end

