-- ==== Sys2Proof/Machine/Ownership.lean ====
section
/-! DEFINITION. The Ownership Controller: candidates and evaluation (R12 to R18), the claim exchange (R20 to R41),
handover, release and LOCKOUT (R43 to R59), reconciliation and dual holds (R60 to R74). -/

namespace Sys2Proof.Machine

/-! ## Candidates (R12, R13) -/

/-- Peer `p` is a candidate for a service and its tuple is `t` (R12). -/
def State.peerCandidate (s : State) (n : Service) (p : StationId) : Option ClaimTuple :=
  match s.published p n with
  | some b => if s.isLive p ∧ b.grade ≠ .unav ∧ (s.planOf n).defined then some (b.tuple p) else none
  | none => none

/-- This station is a candidate for service `n` (R12). -/
def State.ownCandidate (s : State) (n : Service) : Bool :=
  decide (s.station.phase = .active ∧ (s.condition n).grade ≠ .unav ∧ (s.planOf n).defined = true)

/-- This station is the best candidate for service `n`: a candidate better than every other candidate (R13). -/
def State.ownBest (s : State) (n : Service) : Bool :=
  s.ownCandidate n &&
    allSixteen.all fun p =>
      match s.peerCandidate n p with
      | some t => (s.ownTuple n).better t
      | none => true

/-! ## Evaluation (R14 to R18) -/

/-- The last test of R16 and R18: the class is FORCE, or the station is not isolated and its grade is not FAIL. -/
def State.fitToClaim (s : State) (n : Service) : Bool :=
  decide ((s.condition n).cls = .force ∨ (s.peers.isolated = false ∧ (s.condition n).grade ≠ .fail))

/-- Evaluation removes the WTR timer if one is present (R16, R17, R18). -/
def removeWtr (n : Service) (s : State) : State := putEntry n { s.entry n with wtr := none } s

/-- Evaluation starts the WTR timer at the WTR seconds of the plan record (R4, R17). -/
def startWtr (n : Service) (s : State) : State :=
  putEntry n { s.entry n with wtr := some { seconds := (s.planOf n).wtr.toNat, ticks := 0, due := false } } s

/-- The own pending claim record of a new claim (R15). -/
def State.ownRecord (s : State) (n : Service) (epoch : Epoch) (mode : ClaimMode) : ClaimRecord :=
  { claimant := s.station.ownId, epoch := epoch, mode := mode, claimed := s.ownByte n, sent := some .queued,
    window := none, releaseHeard := false, listing := .notHeard }

/-- This station queues an own claim: the record is created, the entry becomes CLAIMING, the WTR timer goes, and a CLAIM
is placed in the Transmit Queue (R15, R20). -/
def queueOwnClaim (n : Service) (epoch : Epoch) (mode : ClaimMode) (s : State) : State :=
  requestClaim n epoch
    (putEntry n { s.entry n with state := .claiming, record := some (s.ownRecord n epoch mode), wtr := none } s)

/-- Evaluation of a VACANT or ORPHANED entry (R16). -/
def evaluateFree (n : Service) (s : State) : State :=
  let e := s.entry n
  if s.ownBest n ∧ e.retryHold = none ∧ s.fitToClaim n then queueOwnClaim n (nextEpoch e.epoch) .vacant s
  else removeWtr n s

/-- This station's claim to take the service over at once (R17, steps 2 and 3), against what the holder publishes. -/
def State.takeoverTest (s : State) (n : Service) (h : ServiceByte) : Bool :=
  let own := s.ownByte n
  decide
    ((own.cls = .force ∧ h.cls = .normal) ∨
      (own.grade.better h.grade = true ∧ (own.cls = .force ∨ own.grade ≠ .fail)))

/-- The revertive test (R17, step 4), against what the holder publishes. -/
def State.revertiveTest (s : State) (n : Service) (h : ServiceByte) : Bool :=
  let own := s.ownByte n
  s.ownBest n &&
    decide
      (own.grade = h.grade ∧ own.grade ≠ .fail ∧ own.rank < h.rank ∧ (s.planOf n).revertive = true ∧
        own.cls = .normal ∧ h.cls = .normal)

/-- Evaluation of a REMOTE entry whose owner `holder` publishes `h` (R17). While the retry hold runs nothing is queued,
and the WTR timer is started, kept or removed by the revertive test (R15; log entry 16). -/
def evaluateRemote (n : Service) (holder : StationId) (h : ServiceByte) (s : State) : State :=
  let e := s.entry n
  if s.ownBest n ∧ s.takeoverTest n h ∧ e.retryHold = none then
    queueOwnClaim n (nextEpoch e.epoch) (.takeover holder) s
  else if s.revertiveTest n h ∧ s.takeoverTest n h = false then
    match e.wtr with
    | none => startWtr n s
    | some w =>
      if w.seconds = 0 ∧ e.retryHold = none then queueOwnClaim n (nextEpoch e.epoch) (.takeover holder) s else s
  else removeWtr n s

/-- Evaluation of a WATCHING entry (R18, case 3): a competing claim with the watched claim's epoch, mode and target. -/
def evaluateWatching (n : Service) (r : ClaimRecord) (s : State) : State :=
  let e := s.entry n
  if r.epoch = nextEpoch e.epoch ∧ s.ownCandidate n ∧ (s.ownTuple n).better r.tuple ∧ e.retryHold = none ∧
      s.fitToClaim n then
    queueOwnClaim n r.epoch r.mode s
  else s

/-- Evaluation of service `n`; it has effect only while the station is ACTIVE (R15). A REMOTE entry whose owner has
published nothing does not arise from LIVE peers (R12); its WTR timer is removed (log entry 17). -/
def evaluate (n : Service) (s : State) : State :=
  if s.station.phase ≠ .active then s
  else
    let e := s.entry n
    match e.state with
    | .vacant => evaluateFree n s
    | .orphaned => evaluateFree n s
    | .remote =>
      match e.owner with
      | some h =>
        match s.published h n with
        | some b => evaluateRemote n h b s
        | none => removeWtr n s
      | none => removeWtr n s
    | .held => removeWtr n s
    | .claiming => s
    | .watching =>
      match e.record with
      | some r => evaluateWatching n r s
      | none => s

/-- An evaluation of all sixteen services, in ascending service order (R14). -/
def evaluateAll (s : State) : State := forEach evaluate s

/-! ## Records removed and own claims failed (R7, R31) -/

/-- The record of entry `n` is removed and the entry settles, without a failure and without an event but a change of
owner's (R7, R27, R30, R33, R37). -/
def dropRecord (n : Service) (s : State) : State := changeEntry n (s.settled (s.entry n)) s

/-- An own claim fails (R31): the record is removed and the entry settles, with the retry hold started; CLAIM_FAILED is
posted, before an OWNER_CHANGED of the same action (R33). -/
def failOwnClaim (n : Service) (r : ClaimRecord) (cause : FailCause) (peer : Option StationId) (s : State) : State :=
  let s' := post .claimFailed (some n) peer (some r.epoch) (some (.claimFailed cause)) s
  changeEntry n { s'.settled (s'.entry n) with retryHold := some Config.retryHold } s'

/-! ## Window end (R28 to R30) -/

/-- Condition (5) of R28: a TAKEOVER on a LIVE holder that neither released nor published a STATUS without the
service. -/
def State.windowFails (s : State) (r : ClaimRecord) : Bool :=
  match r.mode with
  | .vacant => false
  | .takeover t => s.isLive t && !r.releaseHeard && decide (r.listing ≠ .notListed)

/-- The detail of SVC_HELD: the claim's mode (R29). -/
def ClaimMode.detail : ClaimMode → Detail
  | .vacant => .vacantMode
  | .takeover _ => .takeoverMode

/-- The target holder of a TAKEOVER. -/
def ClaimMode.target : ClaimMode → Option StationId
  | .vacant => none
  | .takeover t => some t

/-- An own claim is accepted (R29): entry HELD at the claim epoch, DRVn on, early STATUS, SVC_HELD, evaluation. -/
def acceptOwnClaim (n : Service) (r : ClaimRecord) (s : State) : State :=
  let e := { s.entry n with state := .held, owner := some s.station.ownId, epoch := some r.epoch, record := none }
  evaluate n
    (post .svcHeld (some n) r.mode.target (some r.epoch) (some r.mode.detail) (requestStatus (putEntry n e s)))

/-- A watched claim is accepted (R30): the claimant becomes owner at the claim epoch and the entry settles. -/
def acceptWatchedClaim (n : Service) (r : ClaimRecord) (s : State) : State :=
  let e := { s.entry n with owner := some r.claimant, epoch := some r.epoch }
  evaluate n (changeEntry n (s.settled e) s)

/-- The window of record `r` of entry `n` ends, and the window end test decides the claim (R28). -/
def endWindow (n : Service) (r : ClaimRecord) (s : State) : State :=
  if r.claimant = s.station.ownId then
    if s.windowFails r then evaluate n (failOwnClaim n r .timeout r.mode.target s) else acceptOwnClaim n r s
  else if s.windowFails r then evaluate n (dropRecord n s)
  else acceptWatchedClaim n r s

/-! ## Reports of the Transmitter (R21, R22, R38) -/

/-- The own record of entry `n` with claim epoch `epoch`, if the entry is CLAIMING with one (R20). -/
def State.ownClaimAt (s : State) (n : Service) (epoch : Epoch) : Option ClaimRecord :=
  let e := s.entry n
  match e.record with
  | some r => if e.state = .claiming ∧ r.claimant = s.station.ownId ∧ r.epoch = epoch then some r else none
  | none => none

/-- The Transmitter reports a CLAIM sent CLEAN: the record is SENT and its window starts, ending at once when the release
was already heard (R21); a late report is answered by RELEASE(WITHDRAW) (R22). -/
def claimSentClean (n : Service) (epoch : Epoch) (s : State) : State :=
  let e := s.entry n
  match s.ownClaimAt n epoch with
  | some r =>
    let r' := { r with sent := some .sent, window := some Config.claimWindow }
    let s' := putEntry n { e with record := some r' } s
    if r'.releaseHeard then endWindow n r' s' else s'
  | none =>
    if e.state ≠ .claiming ∧ e.state ≠ .held ∧ (s.station.phase = .active ∨ s.station.phase = .leaving) then
      requestRelease n epoch .withdraw s
    else s

/-- The Transmitter reports a CLAIM given up (R38). -/
def claimGivenUp (n : Service) (epoch : Epoch) (s : State) : State :=
  match s.ownClaimAt n epoch with
  | some r => evaluate n (failOwnClaim n r .giveUp none s)
  | none => s

/-! ## Withdrawal and abandonment (R35, R36) -/

/-- An own claim is withdrawn when SENT, with a RELEASE entry to queue, and abandoned when QUEUED (R35, R36): the state
after, without the RELEASE, and the entry to queue. -/
def withdrawClaim (n : Service) (r : ClaimRecord) (s : State) : State × Option ReleaseEntry :=
  (failOwnClaim n r .withdrawn none s,
    if r.sent = some .sent then some { service := n, epoch := r.epoch, reason := .withdraw } else none)

/-- The own claim of entry `n`, if any, is withdrawn or abandoned, and the RELEASE entry queued (R35, R36). -/
def withdrawOwn (n : Service) (s : State) : State :=
  match (s.entry n).state, (s.entry n).record with
  | .claiming, some r =>
    let (s', x) := withdrawClaim n r s
    let s'' := match x with
      | some x => request (fun q => q.addRelease x) s'
      | none => s'
    evaluate n s''
  | _, _ => s

/-! ## Leaving HELD (R43) -/

/-- Entry `n` leaves HELD (R43): DRVn off with the entry's change, SVC_DROPPED posted. The RELEASE, where the cause has
one, and the evaluation are the caller's. -/
def leaveHeld (n : Service) (owner : Option StationId) (epoch : Option Epoch) (state : EntryState)
    (retry : Option Nat) (reason : DropReason) (s : State) : State :=
  post .svcDropped (some n) owner epoch (some (.dropped reason))
    (putEntry n { s.entry n with owner := owner, epoch := epoch, state := state, retryHold := retry } s)

/-- The epoch of a HELD entry, which is known (R44). -/
def ServiceEntry.heldEpoch (e : ServiceEntry) : Epoch := e.epoch.getD 0

/-- Release on an accepted LOCKOUT (R53). -/
def releaseOnLockout (n : Service) (s : State) : State :=
  let e := s.entry n
  evaluate n
    (requestRelease n e.heldEpoch .lockout (leaveHeld n none e.epoch .vacant e.retryHold .lockout s))

/-! ## The holder's judgement (R44 to R47, R73) -/

/-- An OBJECT entry of this station against a claim (R44, R47, R73). -/
def State.objection (s : State) (sender : StationId) (c : ClaimBody) (cause : ObjectCause) : ObjectEntry :=
  { service := c.service, claimant := sender, claimEpoch := c.epoch, holderEpoch := (s.entry c.service).heldEpoch,
    cause := cause }

/-- Why the holder refuses a claim of its next epoch; `none` when it agrees (R45, Table 3-2). -/
def State.refusal (s : State) (sender : StationId) (c : ClaimBody) : Option ObjectCause :=
  let own := s.ownByte c.service
  if s.isLive sender = false then some .notBetter
  else
    match c.claimed.cls, own.cls with
    | .force, .normal => none
    | .normal, .force => some .forceHeld
    | .force, .force => if c.claimed.grade.better own.grade then none else some .forceHeld
    | .normal, .normal =>
      if c.claimed.grade.better own.grade = true ∨
          ((s.planOf c.service).revertive = true ∧ c.claimed.grade = own.grade ∧ own.grade ≠ .fail ∧
            c.claimed.rank < own.rank) then
        none
      else some .notBetter

/-- Handover to an agreed TAKEOVER claim (R46): DRVs off, the claimant named as owner at the claim epoch, the retry hold
started, SVC_DROPPED(HANDOVER) posted, and RELEASE(HANDOVER) queued with the superseded epoch. -/
def handOver (sender : StationId) (c : ClaimBody) (s : State) : State :=
  let n := c.service
  let e := s.entry n
  evaluate n
    (requestRelease n e.heldEpoch .handover
      (leaveHeld n (some sender) (some c.epoch) (s.settledState (some sender)) (some Config.retryHold) .handover s))

/-- The holder's judgement of a TAKEOVER claim that targets it (R44 to R47). -/
def judgeTakeover (sender : StationId) (c : ClaimBody) (s : State) : State :=
  if c.epoch ≠ nextEpoch (s.entry c.service).epoch then requestObject (s.objection sender c .staleEpoch) s
  else
    match s.refusal sender c with
    | some cause => requestObject (s.objection sender c cause) s
    | none => handOver sender c s

/-! ## Claims heard from peers (R23 to R26) -/

/-- The watched record of a received claim (R24). -/
def watchedRecord (sender : StationId) (c : ClaimBody) : ClaimRecord :=
  { claimant := sender, epoch := c.epoch, mode := c.mode, claimed := c.claimed, sent := none,
    window := some Config.claimWindow, releaseHeard := false, listing := .notHeard }

/-- Claim `x` is better than the recorded claim `y` (R25). -/
def ClaimRecord.beats (x y : ClaimRecord) : Bool :=
  match compareEpochs (some x.epoch) (some y.epoch) with
  | .newer => true
  | .older => false
  | .equal => x.tuple.better y.tuple || decide (x.claimant = y.claimant)

/-- A claim is recorded on an entry without a record, which becomes WATCHING (R24). -/
def recordClaim (sender : StationId) (c : ClaimBody) (s : State) : State :=
  let n := c.service
  evaluate n (putEntry n { s.entry n with state := .watching, record := some (watchedRecord sender c) } s)

/-- A claim compared with the record of a WATCHING or CLAIMING entry (R25, R26). -/
def compareClaim (sender : StationId) (c : ClaimBody) (r : ClaimRecord) (s : State) : State :=
  let n := c.service
  let x := watchedRecord sender c
  if x.beats r = false then s
  else if r.claimant = s.station.ownId then
    let e := { s.entry n with state := .watching, record := some x, retryHold := some Config.retryHold }
    evaluate n
      (post .claimFailed (some n) (some sender) (some r.epoch) (some (.claimFailed .beaten)) (putEntry n e s))
  else putEntry n { s.entry n with record := some x } s

/-- The mode of a claim targets station `p`. -/
def ClaimMode.targets (m : ClaimMode) (p : StationId) : Bool := decide (m = .takeover p)

/-- A delivered CLAIM, by the rows of Table 2-2 in order (R23). -/
def receiveClaim (sender : StationId) (c : ClaimBody) (s : State) : State :=
  let e := s.entry c.service
  if (s.planOf c.service).defined = false then s
  else if c.claimed.grade = .unav ∨ c.claimed.rank = 0 then s
  else if e.state = .held then
    if c.mode.targets s.station.ownId then judgeTakeover sender c s
    else requestObject (s.objection sender c .ownerLive) s
  else if s.isLive sender = false then s
  else if compareEpochs (some c.epoch) e.epoch ≠ .newer then s
  else
    match e.record with
    | none => recordClaim sender c s
    | some r => compareClaim sender c r s

/-! ## RELEASE entries (R37, R50, R51) -/

/-- A RELEASE(WITHDRAW) removes the watched record of the claim it names (R37). -/
def receiveWithdraw (sender : StationId) (x : ReleaseEntry) (s : State) : State :=
  match (s.entry x.service).record with
  | some r =>
    if r.claimant = sender ∧ r.epoch = x.epoch ∧ (s.entry x.service).state = .watching then
      evaluate x.service (dropRecord x.service s)
    else s
  | none => s

/-- The RELEASE entry answers the record (R50, conditions 1 to 3). -/
def ClaimRecord.answeredBy (r : ClaimRecord) (sender : StationId) (x : ReleaseEntry) : Bool :=
  r.mode.targets sender && decide (x.epoch = r.epoch - 1)

/-- A RELEASE entry from the owner, which answers no record (R51). -/
def releaseByOwner (sender : StationId) (x : ReleaseEntry) (s : State) : State :=
  let n := x.service
  let e := s.entry n
  if e.owner = some sender ∧ e.epoch = some x.epoch then
    match e.record with
    | none => evaluate n (changeEntry n { e with owner := none, state := .vacant } s)
    | some _ => changeEntry n { e with owner := none } s
  else s

/-- A RELEASE entry that answers the record (R50): release heard, and a running window ends at once. -/
def answerRecord (n : Service) (r : ClaimRecord) (s : State) : State :=
  let r' := { r with releaseHeard := true }
  let s' := putEntry n { s.entry n with record := some r' } s
  match r.window with
  | some _ => endWindow n r' s'
  | none => s'

/-- A delivered RELEASE entry (R11, R37, R50, R51). -/
def receiveRelease (sender : StationId) (x : ReleaseEntry) (s : State) : State :=
  if (s.planOf x.service).defined = false then s
  else if x.reason = .withdraw then receiveWithdraw sender x s
  else
    match (s.entry x.service).record with
    | some r => if r.answeredBy sender x then answerRecord x.service r s else releaseByOwner sender x s
    | none => releaseByOwner sender x s

/-! ## OBJECT entries (R33) -/

/-- The entry after an OBJECT entry that matches its record: for OWNER_LIVE the objector is the owner at the holder epoch
(R33). -/
def objectedEntry (sender : StationId) (x : ObjectEntry) (e : ServiceEntry) : ServiceEntry :=
  if x.cause = .ownerLive then { e with owner := some sender, epoch := some x.holderEpoch } else e

/-- A delivered OBJECT entry (R11, R33). -/
def receiveObject (sender : StationId) (x : ObjectEntry) (s : State) : State :=
  let n := x.service
  let e := s.entry n
  if (s.planOf n).defined = false then s
  else
    match e.record with
    | some r =>
      if r.claimant = x.claimant ∧ r.epoch = x.claimEpoch then
        let e' := objectedEntry sender x e
        if r.claimant = s.station.ownId then
          let s' :=
            post .claimFailed (some n) (some sender) (some r.epoch) (some (.claimFailed (.objected x.cause))) s
          evaluate n (changeEntry n { s'.settled e' with retryHold := some Config.retryHold } s')
        else evaluate n (changeEntry n (s.settled e') s)
      else s
    | none => s

/-! ## Reports of peer state (R7, R27, R69, R70) -/

/-- On a report of peer `p`'s state: a watched record of a peer that is not LIVE is removed (R27), and an entry without a
record that `p` owns settles (R7, R69). -/
def settleForPeer (p : StationId) (n : Service) (s : State) : State :=
  let e := s.entry n
  match e.record with
  | some r => if r.claimant = p ∧ s.isLive p = false then dropRecord n s else s
  | none =>
    if e.owner = some p ∧ e.state ≠ .held then changeEntry n { e with state := s.settledState e.owner } s else s

/-- The Peer Monitor reports a change of peer `p`'s state; all sixteen services are evaluated (R14, R27, R69). -/
def reportPeerState (p : StationId) (s : State) : State := evaluateAll (forEach (settleForPeer p) s)

/-- On a departure, an entry that `p` owns and that carries a record loses its owner (R70), before the rest of the
report. -/
def departEntry (p : StationId) (n : Service) (s : State) : State :=
  let e := s.entry n
  settleForPeer p n
    (if e.owner = some p ∧ e.record ≠ none then changeEntry n { e with owner := none } s else s)

/-- The Peer Monitor reports that peer `p` has departed (R70). -/
def reportDeparture (p : StationId) (s : State) : State := evaluateAll (forEach (departEntry p) s)

/-! ## Reconciliation (R60 to R68) -/

/-- The epoch at which a STATUS lists a service, if it does (R60). -/
def StatusBody.listing (b : StatusBody) (n : Service) : Option Epoch :=
  (b.held.find? fun x => decide (x.1 = n)).map Prod.snd

/-- A STATUS of the target holder sets the holder listing of a record (R3). -/
def ClaimRecord.hear (r : ClaimRecord) (p : StationId) (listed : Option Epoch) : ClaimRecord :=
  if r.mode.targets p then { r with listing := if listed = none then .notListed else .listed } else r

/-- Entry `n` adopts peer `p` at epoch `f` and settles (R62, R63). -/
def adopt (n : Service) (p : StationId) (f : Epoch) (s : State) : State :=
  changeEntry n (s.settled { s.entry n with owner := some p, epoch := some f }) s

/-- A dual hold is lost and the service dropped by supersession (R65). -/
def supersede (n : Service) (p : StationId) (f : Epoch) (s : State) : State :=
  leaveHeld n (some p) (some f) .remote (some Config.retryHold) .superseded s

/-- A dual hold is won and the service kept (R66). -/
def winDualHold (n : Service) (p : StationId) (ground : DualGround) (s : State) : State :=
  post .dualHold (some n) (some p) (s.entry n).epoch (some (.dualHold ground)) (requestStatus s)

/-- A HELD entry that a LIVE peer lists at `f`, with the tuple the peer publishes (R65 to R67). -/
def settleDualHold (n : Service) (p : StationId) (f : Epoch) (theirs : ClaimTuple) (s : State) : State :=
  match compareEpochs (some f) (s.entry n).epoch with
  | .newer => supersede n p f s
  | .older => winDualHold n p .epoch s
  | .equal => if theirs.better (s.ownTuple n) then supersede n p f s else winDualHold n p .tuple s

/-- A REMOTE entry of another owner that peer `p` lists at `f` (R63). -/
def reconcileRemote (n : Service) (p q : StationId) (f : Epoch) (theirs : ClaimTuple) (s : State) : State :=
  match compareEpochs (some f) (s.entry n).epoch with
  | .newer => adopt n p f s
  | .older => s
  | .equal =>
    match s.published q n with
    | some b => if theirs.better (b.tuple q) then adopt n p f s else s
    | none => s

/-- Reconciliation of a defined service's entry from the STATUS of peer `p` (Table 4-1, its first row that holds). -/
def reconcile (n : Service) (p : StationId) (b : StatusBody) (s : State) : State :=
  let e := s.entry n
  let listed := b.listing n
  let theirs := (look b.services n).tuple p
  match e.record with
  | some r => putEntry n { e with record := some (r.hear p listed) } s
  | none =>
    if e.owner = some p then
      match listed with
      | some f => if e.epoch = some f then s else changeEntry n { e with epoch := some f } s
      | none => changeEntry n { e with owner := none, state := .vacant } s
    else
      match listed with
      | none => s
      | some f =>
        match e.state with
        | .held => if s.isLive p then settleDualHold n p f theirs s else s
        | .vacant => adopt n p f s
        | .orphaned => adopt n p f s
        | .remote =>
          match e.owner with
          | some q => reconcileRemote n p q f theirs s
          | none => s
        | .claiming => s
        | .watching => s

/-- Whether the state, owner or epoch of an entry changed (R14, R64). -/
def entryChanged (a b : ServiceEntry) : Bool :=
  decide (a.state ≠ b.state ∨ a.owner ≠ b.owner ∨ a.epoch ≠ b.epoch)

/-- The entry of a defined service is reconciled (R11, R60). -/
def reconcileDefined (n : Service) (p : StationId) (b : StatusBody) (s : State) : State :=
  if (s.planOf n).defined then reconcile n p b s else s

/-- One service of a delivered STATUS: reconciled when it is defined (R11, R60), then evaluated when that changed the
entry (R14, R64) or when the service is marked and the peer is LIVE (R14, R87; log entry 12). -/
def statusService (p : StationId) (b : StatusBody) (marks : Table Bool) (n : Service) (s : State) : State :=
  let s' := reconcileDefined n p b s
  if entryChanged (s.entry n) (s'.entry n) = true ∨ (look marks n = true ∧ s.isLive p = true) then evaluate n s' else s'

/-- A delivered STATUS, service by service in ascending order (R60). -/
def receiveStatus (p : StationId) (b : StatusBody) (marks : Table Bool) (s : State) : State :=
  forEach (statusService p b marks) s

/-! ## Phase changes at the Ownership Controller (R41, R58, R111, R114) -/

/-- LEAVE at one entry (R111, step 1): released when HELD, withdrawn or abandoned when CLAIMING, its WTR timer removed.
The RELEASE entry to queue comes with the state. -/
def leaveEntry (n : Service) (s : State) : State × Option ReleaseEntry :=
  let e := s.entry n
  match e.state, e.record with
  | .held, _ =>
    (removeWtr n (leaveHeld n none e.epoch .vacant e.retryHold .leave s),
      some { service := n, epoch := e.heldEpoch, reason := .leave })
  | .claiming, some r =>
    let (s', x) := withdrawClaim n r s
    (removeWtr n s', x)
  | _, _ => (removeWtr n s, none)

/-- LEAVE at the entries of a list of services, with the RELEASE entries in that order (R111, steps 1 and 2). -/
def leaveEntries : List Service → State → State × List ReleaseEntry
  | [], s => (s, [])
  | n :: rest, s =>
    let (s1, x) := leaveEntry n s
    let (s2, xs) := leaveEntries rest s1
    (s2, x.toList ++ xs)

/-- MUTED at one entry (R114, step 1; R41, case 5). -/
def muteEntry (n : Service) (s : State) : State :=
  let e := s.entry n
  match e.state, e.record with
  | .held, _ => removeWtr n (leaveHeld n none e.epoch .vacant e.retryHold .muted s)
  | .claiming, some _ => removeWtr n (dropRecord n s)
  | _, _ => removeWtr n s

end Sys2Proof.Machine
end

