-- ==== Sys2Proof/Machine/Conditions.lean ====
section
/-! DEFINITION. The Condition Monitor: the condition timer (R76 to R78), the published grade and class (R79), their report
to the Ownership Controller (R80), and operator requests (R81 to R84). -/

namespace Sys2Proof.Machine

/-- The grade and class of service `n` formed anew (R79). -/
def reform (n : Service) (s : State) : State :=
  let c := s.condition n
  putCondition n { c with grade := formGrade (s.planOf n) c.debounced c.request, cls := formClass c.request } s

/-- The withdrawal rules applied to a report (R35, cases 1 to 3): `old` is what the Condition Monitor held before. -/
def State.withdrawalDue (s : State) (n : Service) (old : ServiceCondition) : Bool :=
  let c := s.condition n
  match (s.entry n).record with
  | some r =>
    decide
      ((c.grade = .fail ∧ old.grade ≠ .fail ∧ r.claimed.cls = .normal) ∨
        (c.request = .lockout ∧ old.request ≠ .lockout) ∨
        (c.cls = .normal ∧ old.cls = .force ∧ c.grade = .fail))
  | none => false

/-- The early STATUS of R80, step 3: asked for in LISTEN and ACTIVE. -/
def reportStatus (s : State) : State :=
  if s.station.phase = .listen ∨ s.station.phase = .active then enqueue TxQueue.addStatus s else s

/-- An own claim that a report makes unfit is withdrawn or abandoned (R35, R36, R80, step 2). -/
def withdrawIfDue (n : Service) (old : ServiceCondition) (s : State) : State :=
  if s.withdrawalDue n old then withdrawOwn n s else s

/-- A HELD entry under LOCKOUT is released (R53, R83). -/
def releaseIfLocked (n : Service) (s : State) : State :=
  if (s.condition n).request = .lockout ∧ (s.entry n).state = .held then releaseOnLockout n s else s

/-- What the Ownership Controller does on a report for service `n` (R80, steps 1 to 3), with the release of a HELD entry
under an accepted LOCKOUT (R53, R83; log entry 15). -/
def takeReport (n : Service) (old : ServiceCondition) (s : State) : State :=
  reportStatus (releaseIfLocked n (withdrawIfDue n old (evaluate n s)))

/-- GRADE_CHANGED is posted when the grade of service `n` differs from the old one (R80). -/
def postGrade (n : Service) (old : Grade) (s : State) : State :=
  let grade := (s.condition n).grade
  if grade ≠ old then post .gradeChanged (some n) none none (some (.grade grade)) s else s

/-- A change of the debounced condition or of the request of service `n`: grade and class are formed anew, and a change
of either is posted and reported (R79, R80). The STATUS it asks for is queued and not yet taken. -/
def updateCondition (n : Service) (c : ServiceCondition) (s : State) : State :=
  let old := s.condition n
  let s1 := reform n (putCondition n c s)
  if (s1.condition n).grade = old.grade ∧ (s1.condition n).cls = old.cls then s1
  else takeReport n old (postGrade n old.grade s1)

/-- The condition timer runs out, or a hold-off of 0 lets the change through: the timer goes and the debounced condition
takes the raw condition (R77). -/
def debounce (n : Service) (s : State) : State :=
  let c := s.condition n
  takeNext (updateCondition n { c with timer := none, debounced := c.raw } s)

/-- The hold-off of a plan record in milliseconds (R104). -/
def PlanRecord.holdOffMs (p : PlanRecord) : Nat := 10 * p.holdOff.toNat

/-- The raw condition of service `n` has changed, in a phase in which the timer runs (R76). -/
def rawChanged (n : Service) (s : State) : State :=
  let c := s.condition n
  let h := (s.planOf n).holdOffMs
  if c.raw = c.debounced then putCondition n { c with timer := none } s
  else if c.raw.worse c.debounced then
    if h = 0 then debounce n s else putCondition n { c with timer := some h } s
  else putCondition n { c with timer := some (max h Config.improveMinimum) } s

/-- Entry to LISTEN at service `n`: the timer goes and the debounced condition takes the raw one (R78). -/
def listenEntry (n : Service) (s : State) : State :=
  let c := s.condition n
  updateCondition n { c with timer := none, debounced := c.raw } s

/-- The tests of R81 on an operator request, in order; `needsRank` is the rank test of FORCE and LOCKOUT. -/
def requestTest (needsRank : Bool) (s : State) : CommandResult :=
  if s.station.phase ≠ .listen ∧ s.station.phase ≠ .active then .refusedPhase
  else
    match indexOfByte s.host.argument with
    | none => .refusedArg
    | some n => if needsRank = true ∧ (s.planOf n).rank = 0 then .refusedArg else .done

/-- An operator request on the service the command argument names (R81): refused, or accepted with DONE. -/
def operatorRequest (r : Request) (needsRank : Bool) (s : State) : State :=
  match requestTest needsRank s, indexOfByte s.host.argument with
  | .done, some n => takeNext (updateCondition n { s.condition n with request := r } (setResult .done s))
  | result, _ => setResult result s

/-- What the Condition Monitor holds for service `n` after RESTART (R85): the plan and the pins are kept. -/
def restartCondition (p : PlanRecord) (c : ServiceCondition) : ServiceCondition :=
  { sf := c.sf, sd := c.sd, raw := rawOf c.sf c.sd, debounced := .ok, timer := none, request := .none,
    grade := formGrade p .ok .none, cls := .normal }

end Sys2Proof.Machine
end

