-- ==== Sys2Proof/Machine/Line.lean ====
section
/-! DEFINITION. The line code of the coordination bus (R118, R119) and the decoder of the Frame Receiver, one bit time at
a time (R120 to R123). -/

namespace Sys2Proof.Machine

/-- The opposite polarity. -/
def opposite : Polarity → Polarity
  | .positive => .negative
  | .negative => .positive

/-- Whether a bit time carries a pulse. -/
def isPulse : Symbol → Bool
  | .empty => false
  | .pulse _ => true

/-! ## Sending (R119) -/

/-- The content bits coded on the line, then the end delimiter: `last` is the polarity of the last pulse, `zeros` the
length of the run of zeros so far (R119). -/
def codeBits : Polarity → Nat → List Bool → List Symbol
  | last, _, [] => [.pulse (opposite last), .empty, .pulse (opposite last)]
  | last, _, true :: bs => .pulse (opposite last) :: codeBits (opposite last) 0 bs
  | last, zeros, false :: bs =>
    if zeros = 4 then .pulse last :: codeBits last 0 bs else .empty :: codeBits last (zeros + 1) bs

/-- A frame's content on the line, from the start delimiter to the end delimiter (R119). -/
def codeFrame (content : List Bool) : List Symbol :=
  .pulse .positive :: .pulse .positive :: codeBits .positive 0 content

/-- The polarity of the last pulse of some bit times, after a pulse of polarity `last` (R118). -/
def lastPulse : Option Polarity → List Symbol → Option Polarity
  | last, [] => last
  | last, .empty :: bs => lastPulse last bs
  | _, .pulse p :: bs => lastPulse (some p) bs

/-- The bits of a byte, most significant first (R119, R157). -/
def bitsOfByte (b : Byte) : List Bool :=
  [b.getLsbD 7, b.getLsbD 6, b.getLsbD 5, b.getLsbD 4, b.getLsbD 3, b.getLsbD 2, b.getLsbD 1, b.getLsbD 0]

/-- The bits of a string of bytes, in offset order (R157). -/
def bitsOfBytes : List Byte → List Bool
  | [] => []
  | b :: bs => bitsOfByte b ++ bitsOfBytes bs

/-! ## Reading (R118, R120 to R123) -/

/-- The Frame Receiver after the part of R118 that every bit time has: the empty count and the last mark polarity. -/
def Receiver.sense (r : Receiver) : Symbol → Receiver
  | .empty => { r with emptyCount := min (r.emptyCount + 1) Config.idleBits }
  | .pulse p => { r with emptyCount := 0, lastPolarity := some p }

/-- The decoder leaves the frame being assembled (R122, R123). -/
def Receiver.leaveFrame (r : Receiver) : Receiver :=
  { r with decoder := .seekIdle, assembled := [], overrun := false, lastMark := none }

/-- A code error: the frame being assembled is discarded and the error counted (R121, R122). -/
def Receiver.codeErrorFound (r : Receiver) : Receiver :=
  { r.leaveFrame with codeErrors := satInc r.codeErrors }

/-- One content bit more, up to the longest frame; past it bits are not stored and the overrun flag is set (R122; log
entry 8). -/
def Receiver.append (r : Receiver) (b : Bool) : Receiver :=
  if r.assembled.length < Config.longestContent + Config.closingBits then { r with assembled := r.assembled ++ [b] }
  else { r with overrun := true }

/-- A symbol in IN_FRAME (Table 8-2): `r` is the receiver before the symbol, `after` the receiver after R118's part. -/
def Receiver.readInFrame (r after : Receiver) : Symbol → Receiver × LineEvent
  | .empty => if r.emptyCount < 4 then (after.append false, .quiet) else (after.codeErrorFound, .codeError)
  | .pulse p =>
    if r.lastPolarity ≠ some p then ({ after.append true with lastMark := some .contentOne }, .quiet)
    else if r.emptyCount = 4 then ({ after.append false with lastMark := some .fill }, .quiet)
    else if r.emptyCount = 1 ∧ r.lastMark = some .contentOne then
      (after.leaveFrame, .frameEnd (r.assembled.take (r.assembled.length - Config.closingBits)) r.overrun)
    else (after.codeErrorFound, .codeError)

/-- One bit time at the decoder (R118, R120 to R123). -/
def Receiver.read (r : Receiver) (b : Symbol) : Receiver × LineEvent :=
  let after := r.sense b
  match r.decoder, b with
  | .seekIdle, .empty =>
    if after.emptyCount = Config.idleBits then ({ after with decoder := .lineIdle }, .idle) else (after, .quiet)
  | .seekIdle, .pulse _ => (after, .quiet)
  | .lineIdle, .empty => (after, .quiet)
  | .lineIdle, .pulse _ => ({ after with decoder := .opening, assembled := [], overrun := false }, .quiet)
  | .opening, .empty => (after.codeErrorFound, .codeError)
  | .opening, .pulse p =>
    if r.lastPolarity = some p then
      ({ after with decoder := .inFrame, assembled := [], overrun := false, lastMark := some .delimiter }, .quiet)
    else (after.codeErrorFound, .codeError)
  | .inFrame, b => r.readInFrame after b

/-- The bit times of a line, one after another: what the last one brings. Nothing (`none`) when a frame ends or a code
error is found before the last bit time, since that is a happening of its own. -/
def Receiver.run : Receiver → List Symbol → Option (Receiver × LineEvent)
  | r, [] => some (r, .quiet)
  | r, [b] => some (r.read b)
  | r, b :: c :: bs =>
    match r.read b with
    | (r', .quiet) => r'.run (c :: bs)
    | (r', .idle) => r'.run (c :: bs)
    | (_, .codeError) => none
    | (_, .frameEnd _ _) => none

end Sys2Proof.Machine
end

