-- ==== Sys2Proof/Machine/Formats.lean ====
section
/-! DEFINITION. The frame layouts and the CRC (R157), the content of a frame as bytes in both directions, and the
judgement of a frame at its end delimiter (R124, R125). -/

namespace Sys2Proof.Machine

/-! ## The CRC (R157) -/

/-- One bit through the CRC register, polynomial 1021h. -/
def crcBit (reg : Word16) (b : Bool) : Word16 :=
  let shifted := reg <<< 1
  if (reg.getLsbD 15) != b then shifted ^^^ 0x1021 else shifted

/-- The CRC-16 over a string of bytes, most significant bit first, preset to FFFFh. -/
def crc16 (bytes : List Byte) : Word16 := (bitsOfBytes bytes).foldl crcBit 0xFFFF

/-- The bytes the plan checksum covers: the plan version, then each service's flags byte and WTR (R105, R157). -/
def planBytes (p : Plan) : List Byte :=
  p.version :: allSixteen.flatMap fun n =>
    let r := look p.records n
    [byteOf (bit r.defined + 2 * bit r.revertive), r.wtr]

/-- The plan checksum (R105). -/
def planChecksum (p : Plan) : Word16 := crc16 (planBytes p)

/-! ## Building (Tables 11-1 to 11-3) -/

/-- The bytes of a held list. -/
def heldBytes : List (Service × Epoch) → List Byte
  | [] => []
  | (n, e) :: rest => byteOfIndex n :: e :: heldBytes rest

/-- The bytes of a RELEASE list. -/
def releaseBytes : List ReleaseEntry → List Byte
  | [] => []
  | x :: rest => byteOfIndex x.service :: x.epoch :: byteOf x.reason.code :: releaseBytes rest

/-- The bytes of an OBJECT list. -/
def objectBytes : List ObjectEntry → List Byte
  | [] => []
  | x :: rest =>
    byteOfIndex x.service :: byteOfIndex x.claimant :: x.claimEpoch :: x.holderEpoch :: byteOf x.cause.code ::
      objectBytes rest

/-- The bytes of a frame body (Table 11-3). -/
def bodyBytes : FrameBody → List Byte
  | .status b =>
    byteOf b.phase.code :: byteOf (bit b.isolated) ::
      (b.services.toList.map ServiceByte.encode ++ byteOf b.held.length :: heldBytes b.held)
  | .claim b =>
    let head := [byteOfIndex b.service, b.epoch]
    match b.mode with
    | .vacant => head ++ [0, b.claimed.encode]
    | .takeover t => head ++ [1, b.claimed.encode, byteOfIndex t]
  | .release es => byteOf es.length :: releaseBytes es
  | .object es => byteOf es.length :: objectBytes es

/-- Header and body of a frame (Tables 11-1 and 11-3). -/
def coveredBytes (f : Frame) : List Byte :=
  byteOf (f.body.kind.code * 16 + f.sender.val) :: f.seq :: hiByte f.checksum :: loByte f.checksum :: bodyBytes f.body

/-- The content of a frame: header, body and CRC, high byte first (R157). -/
def frameBytes (f : Frame) : List Byte :=
  let covered := coveredBytes f
  let crc := crc16 covered
  covered ++ [hiByte crc, loByte crc]

/-! ## Reading (R125, R157) -/

/-- A list of optional values, present when each is. -/
def allSome {α : Type} : List (Option α) → Option (List α)
  | [] => some []
  | none :: _ => none
  | some x :: rest => (allSome rest).map (x :: ·)

/-- Sixteen values as a table. -/
def tableOfList {α : Type} (l : List α) : Option (Table α) :=
  if h : l.length = 16 then some ⟨⟨l⟩, h⟩ else none

/-- The services of a list stand in strictly ascending order (R125, test 6). -/
def strictlyAscending : List Service → Bool
  | [] => true
  | [_] => true
  | a :: b :: rest => decide (a < b) && strictlyAscending (b :: rest)

/-- No service of a list is named twice (R125, test 6). -/
def noneTwice : List Service → Bool
  | [] => true
  | a :: rest => !rest.contains a && noneTwice rest

/-- A held list of exactly `n` pairs (R125, tests 4 and 5). -/
def parseHeld : Nat → List Byte → Option (List (Service × Epoch))
  | 0, [] => some []
  | n + 1, s :: e :: rest =>
    match indexOfByte s, parseHeld n rest with
    | some s, some tail => some ((s, e) :: tail)
    | _, _ => none
  | _, _ => none

/-- A RELEASE list of exactly `n` entries (R125, tests 2, 4 and 5). -/
def parseRelease : Nat → List Byte → Option (List ReleaseEntry)
  | 0, [] => some []
  | n + 1, s :: e :: r :: rest =>
    match indexOfByte s, reasonOfByte r, parseRelease n rest with
    | some s, some r, some tail => some ({ service := s, epoch := e, reason := r } :: tail)
    | _, _, _ => none
  | _, _ => none

/-- An OBJECT list of exactly `n` entries (R125, tests 2, 4 and 5). -/
def parseObject : Nat → List Byte → Option (List ObjectEntry)
  | 0, [] => some []
  | n + 1, s :: c :: ce :: he :: x :: rest =>
    match indexOfByte s, indexOfByte c, causeOfByte x, parseObject n rest with
    | some s, some c, some x, some tail =>
      some ({ service := s, claimant := c, claimEpoch := ce, holderEpoch := he, cause := x } :: tail)
    | _, _, _, _ => none
  | _, _ => none

/-- The body of a STATUS (Table 11-3). -/
def parseStatus : List Byte → Option StatusBody
  | ph :: iso :: rest =>
    match statusPhaseOfByte ph, flagOfByte iso, (allSome ((rest.take 16).map decodeServiceByte)).bind tableOfList,
        rest.drop 16 with
    | some ph, some iso, some svcs, n :: pairs =>
      if n.toNat ≤ 16 then
        match parseHeld n.toNat pairs with
        | some held =>
          if strictlyAscending (held.map Prod.fst) then
            some { phase := ph, isolated := iso, services := svcs, held := held }
          else none
        | none => none
      else none
    | _, _, _, _ => none
  | _ => none

/-- The body of a CLAIM; a target holder is present exactly when the mode is TAKEOVER (Table 8-3). -/
def parseClaim : List Byte → Option ClaimBody
  | [s, e, m, sb] =>
    match indexOfByte s, decodeServiceByte sb with
    | some s, some sb => if m = 0 then some { service := s, epoch := e, mode := .vacant, claimed := sb } else none
    | _, _ => none
  | [s, e, m, sb, t] =>
    match indexOfByte s, decodeServiceByte sb, indexOfByte t with
    | some s, some sb, some t =>
      if m = 1 then some { service := s, epoch := e, mode := .takeover t, claimed := sb } else none
    | _, _, _ => none
  | _ => none

/-- The body of a frame whose kind nibble is `k` (R125). -/
def parseBody (k : Nat) (body : List Byte) : Option FrameBody :=
  match k with
  | 4 => (parseStatus body).map .status
  | 2 => (parseClaim body).map .claim
  | 6 =>
    match body with
    | n :: rest =>
      if 1 ≤ n.toNat ∧ n.toNat ≤ 16 then
        match parseRelease n.toNat rest with
        | some es => if noneTwice (es.map ReleaseEntry.service) then some (.release es) else none
        | none => none
      else none
    | [] => none
  | 7 =>
    match body with
    | n :: rest =>
      if 1 ≤ n.toNat ∧ n.toNat ≤ 16 then
        match parseObject n.toNat rest with
        | some es => if noneTwice (es.map ObjectEntry.service) then some (.object es) else none
        | none => none
      else none
    | [] => none
  | _ => none

/-- The fields of a frame from its header and body; `none` when a content test of R125 fails. -/
def parseFrame : List Byte → Option Frame
  | h :: q :: c1 :: c2 :: body =>
    (parseBody (h.toNat / 16) body).map fun b =>
      { sender := ⟨h.toNat % 16, Nat.mod_lt _ (by decide)⟩, seq := q, checksum := wordOf c1 c2, body := b }
  | _ => none

/-! ## Judging a frame (R124) -/

/-- The byte of eight bits, the most significant first. -/
def byteOfBits (bits : List Bool) : Byte :=
  byteOf (bits.foldl (fun n b => 2 * n + bit b) 0)

/-- Content bits as `n` bytes. -/
def bytesOfBits : Nat → List Bool → List Byte
  | 0, _ => []
  | n + 1, bits => byteOfBits (bits.take 8) :: bytesOfBits n (bits.drop 8)

/-- The CRC and content tests of R124 on a content of whole bytes. -/
def judgeBytes (bytes : List Byte) : FrameOutcome :=
  let covered := bytes.take (bytes.length - 2)
  match bytes.drop (bytes.length - 2) with
  | [hi, lo] =>
    if crc16 covered = wordOf hi lo then
      match parseFrame covered with
      | some f => .good f
      | none => .formatError
    else .crcError
  | _ => .formatError

/-- The judgement of a frame's content at its end delimiter, in the order of R124. -/
def judgeFrame (content : List Bool) (overrun : Bool) : FrameOutcome :=
  if content.length % 8 = 0 ∧ Config.shortestContent ≤ content.length ∧ overrun = false then
    judgeBytes (bytesOfBits (content.length / 8) content)
  else .formatError

/-- A frame counted in exactly one counter (R124). -/
def Receiver.count (r : Receiver) : FrameOutcome → Receiver
  | .formatError => { r with formatErrors := satInc r.formatErrors }
  | .crcError => { r with crcErrors := satInc r.crcErrors }
  | .good _ => { r with goodFrames := satInc r.goodFrames }

end Sys2Proof.Machine
end

