-- ==== Sys2Proof/Machine/Peers.lean ====
section
/-! DEFINITION. The Peer Monitor: the isolated flag (R98), the taking of a frame step by step (R88 to R95), and silence
(R96). -/

namespace Sys2Proof.Machine

/-! ## The isolated flag (R98) -/

/-- What the isolated flag is to be: ACTIVE, peers expected, and no peer LIVE (R98). -/
def State.isolatedNow (s : State) : Bool :=
  decide (s.station.phase = .active ∧ 1 ≤ s.station.plan.expectedPeers.val) &&
    allSixteen.all fun p => !s.isLive p

/-- The isolated flag follows its inputs, and its change is posted: ISOLATED, or REJOINED with the peer that became LIVE
or with the new phase (R98). -/
def refreshIsolated (joined : Option StationId) (s : State) : State :=
  let s' := s.withPeers { s.peers with isolated := s.isolatedNow }
  if s.isolatedNow = s.peers.isolated then s
  else if s.isolatedNow then post .isolated none none none none s'
  else
    match joined with
    | some p => post .rejoined none (some p) none (some .rejoinedByPeer) s'
    | none => post .rejoined none none none (some (.phase s.station.phase)) s'

/-- A change of the flag since `before` is reported, and all sixteen services are evaluated (R14, R98). -/
def reportFlag (before : Bool) (s : State) : State := if s.peers.isolated = before then s else evaluateAll s

/-! ## Taking a frame (R88) -/

/-- A frame with a different plan checksum from a peer that is not INCOMPATIBLE yet (R89, case 2). -/
def becomeIncompatible (p : StationId) (s : State) : State :=
  let flag := s.peers.isolated
  let s1 :=
    putPeer p
      { s.peer p with
        state := .incompatible, lastSeq := none, data := none, inOrder := 0, silence := some Config.silence } s
  reportFlag flag (reportPeerState p (refreshIsolated none (post .peerIncompatible none (some p) none none s1)))

/-- Steps (1) of R88 for a checksum that differs (R89, cases 1 and 2). -/
def takeMismatch (p : StationId) (s : State) : State :=
  if (s.peer p).state = .incompatible then putPeer p { s.peer p with silence := some Config.silence } s
  else becomeIncompatible p s

/-- The sequence step for a frame that is not a duplicate (R90, cases 1 and 3). -/
def PeerEntry.takeSeq (e : PeerEntry) (q : Byte) : PeerEntry :=
  { e with
    lastSeq := some q
    accepted := satInc e.accepted
    lost := match e.lastSeq with
      | none => e.lost
      | some last => satAdd e.lost (q - last - 1).toNat }

/-- `q` directly follows the last sequence that stood before (R93). -/
def PeerEntry.follows (e : PeerEntry) (q : Byte) : Bool :=
  match e.lastSeq with
  | none => false
  | some last => decide (q = last + 1)

/-- The silence timer step (R91). -/
def PeerEntry.restartSilence (e : PeerEntry) : PeerEntry :=
  match e.state with
  | .arriving => { e with silence := some Config.silence }
  | .live => { e with silence := some Config.silence }
  | .incompatible => { e with silence := some Config.silence }
  | .absent => e
  | .silent => e
  | .self => e

/-- The in-order count of an ARRIVING peer after a frame (R93). -/
def PeerEntry.countInOrder (e : PeerEntry) (isStatus follows : Bool) : Nat :=
  match isStatus, follows with
  | true, true => e.inOrder + 1
  | true, false => 1
  | false, true => e.inOrder
  | false, false => 0

/-- The body is a STATUS with phase LEAVING (R92, R94). -/
def FrameBody.isLeaving : FrameBody → Bool
  | .status b => decide (b.phase = .leaving)
  | .claim _ => false
  | .release _ => false
  | .object _ => false

/-- The body is a STATUS. -/
def FrameBody.isStatus : FrameBody → Bool
  | .status _ => true
  | .claim _ => false
  | .release _ => false
  | .object _ => false

/-- Peer `p` becomes ARRIVING (R92): the in-order count is 0, the silence timer starts, and an early STATUS is asked for in
LISTEN and ACTIVE unless the frame is a STATUS with phase LEAVING. -/
def arrive (p : StationId) (body : FrameBody) (s : State) : State :=
  let s' := putPeer p { s.peer p with state := .arriving, inOrder := 0, silence := some Config.silence } s
  if (s.station.phase = .listen ∨ s.station.phase = .active) ∧ body.isLeaving = false then requestStatus s' else s'

/-- An ARRIVING peer becomes LIVE (R93): it is posted, and the isolated flag follows (R98). -/
def becomeLive (p : StationId) (s : State) : State :=
  refreshIsolated (some p)
    (post .peerLive none (some p) none none (putPeer p { s.peer p with state := .live, inOrder := 2 } s))

/-- An ARRIVING peer becomes LIVE at the state step: its count reaches 2 (R93), by another frame than a STATUS with phase
LEAVING, on which it becomes ABSENT directly (R94; log entry 14). -/
def PeerEntry.reachesLive (e : PeerEntry) (body : FrameBody) (follows : Bool) : Bool :=
  decide (2 ≤ e.countInOrder body.isStatus follows) && !body.isLeaving

/-- The state step of R88 (R92, R93). -/
def stateStep (p : StationId) (body : FrameBody) (follows : Bool) (s : State) : State :=
  let e := s.peer p
  match e.state with
  | .arriving =>
    if e.reachesLive body follows then becomeLive p s
    else putPeer p { e with inOrder := e.countInOrder body.isStatus follows } s
  | .live => s
  | .self => s
  | .absent => arrive p body s
  | .silent => arrive p body s
  | .incompatible => arrive p body s

/-- Whether the state step changes the peer's state. -/
def PeerEntry.stateChanges (e : PeerEntry) (body : FrameBody) (follows : Bool) : Bool :=
  match e.state with
  | .arriving => e.reachesLive body follows
  | .live => false
  | .self => false
  | .absent => true
  | .silent => true
  | .incompatible => true

/-- The services whose grade, rank or class differs between the published data before and after a STATUS; every service
when there was none before (R87). -/
def marksOf (old : Option StatusBody) (new : StatusBody) : Table Bool :=
  tabulate fun n =>
    match old with
    | none => true
    | some b => decide (look b.services n ≠ look new.services n)

/-- The delivery of a frame to the Ownership Controller (R95, Table 6-3). -/
def deliver (p : StationId) (body : FrameBody) (marks : Table Bool) (s : State) : State :=
  match body with
  | .status b => receiveStatus p b marks s
  | .claim c => receiveClaim p c s
  | .release es => es.foldl (fun s x => receiveRelease p x s) s
  | .object es => es.foldl (fun s x => receiveObject p x s) s

/-- The departure of a peer (R94). -/
def depart (p : StationId) (s : State) : State :=
  let flag := s.peers.isolated
  let s1 := putPeer p { s.peer p with state := .absent, silence := none, inOrder := 0 } s
  reportFlag flag (reportDeparture p (refreshIsolated none (post .peerLeft none (some p) none none s1)))

/-- The data step (R88, step 5): a STATUS replaces the published data. -/
def replaceData (p : StationId) (body : FrameBody) (s : State) : State :=
  match body with
  | .status b => putPeer p { s.peer p with data := some b } s
  | .claim _ => s
  | .release _ => s
  | .object _ => s

/-- The service marks that go with a frame (R87). -/
def frameMarks (old : Option StatusBody) : FrameBody → Table Bool
  | .status b => marksOf old b
  | .claim _ => uniform false
  | .release _ => uniform false
  | .object _ => uniform false

/-- The reports of a changed peer state, then of a changed flag, before the frame's delivery (R95, R98). -/
def reportChange (p : StationId) (changed flag : Bool) (s : State) : State :=
  if changed then reportFlag flag (reportPeerState p s) else s

/-- The departure step (R88, step 7). -/
def departIfLeaving (p : StationId) (body : FrameBody) (s : State) : State :=
  if body.isLeaving then depart p s else s

/-- Steps (4) to (7) of R88, on a frame that is no duplicate; `follows` compares its sequence with the last one before
it. -/
def takeData (p : StationId) (body : FrameBody) (follows : Bool) (s : State) : State :=
  let s4 := stateStep p body follows s
  departIfLeaving p body
    (deliver p body (frameMarks (s4.peer p).data body)
      (reportChange p ((s.peer p).stateChanges body follows) s.peers.isolated (replaceData p body s4)))

/-- The Peer Monitor takes a frame from a peer, whole (R88). -/
def takeFrame (f : Frame) (s : State) : State :=
  let p := f.sender
  let s1 := putPeer p { s.peer p with checksumSeen := some f.checksum } s
  if f.checksum ≠ s.station.checksum then takeMismatch p s1
  else
    let e := s1.peer p
    if e.lastSeq = some f.seq then putPeer p { e with duplicates := satInc e.duplicates } s1
    else takeData p f.body (e.follows f.seq) (putPeer p (e.takeSeq f.seq).restartSilence s1)

/-! ## Silence (R96) -/

/-- A peer that was announced LIVE is announced SILENT (R96, cases 1 and 2). -/
def announceSilence (p : StationId) (announce : Bool) (s : State) : State :=
  if announce then post .peerSilent none (some p) none none s else s

/-- A LIVE or ARRIVING peer becomes SILENT (R96, cases 1 and 2). -/
def becomeSilent (p : StationId) (announce : Bool) (s : State) : State :=
  reportFlag s.peers.isolated
    (reportPeerState p
      (refreshIsolated none
        (announceSilence p announce (putPeer p { s.peer p with state := .silent, inOrder := 0, silence := none } s))))

/-- The silence timer of peer `p` runs out (R96). -/
def silenceRunsOut (p : StationId) (s : State) : State :=
  match (s.peer p).state with
  | .live => becomeSilent p true s
  | .arriving => becomeSilent p false s
  | .incompatible =>
    reportPeerState p (putPeer p { s.peer p with state := .absent, inOrder := 0, silence := none } s)
  | .absent => s
  | .silent => s
  | .self => s

end Sys2Proof.Machine
end

