-- ==== Sys2Proof/Machine/Station.lean ====
section
/-! DEFINITION. The Station Controller: START (R106), the listen and status period timers (R108, R109), LEAVE (R111,
R112), MUTED (R114), RESTART (R116) and hard reset (R117). -/

namespace Sys2Proof.Machine

/-- The phase changes and PHASE_CHANGED is the last event of the action (R103): `before` is what the other blocks do on
the report of the new phase. -/
def changePhase (p : Phase) (blocks : State → State) (s : State) : State :=
  post .phaseChanged none none none (some (.phase p)) (blocks (setPhase p s))

/-- The listen timer and the status period timer are stopped (R108, R109). -/
def stopTimers (s : State) : State :=
  s.withStation { s.station with listenTimer := none, statusTimer := none }

/-- The receiver idle, with its counters kept (R129, R130). -/
def Receiver.idled (r : Receiver) (receiving : Bool) : Receiver :=
  { r with
    receiving := receiving, decoder := .seekIdle, emptyCount := 0, lastPolarity := none, assembled := [],
    overrun := false, lastMark := none }

/-! ## START (R106) -/

/-- START accepted in CONFIG (R106): the checksum, the timers, the STATUS asked for at once, the receiver, the grades
taken from the pins (R78), and last the Transmitter, which begins to take frames (R144; log entry 11). -/
def startStation (s : State) : State :=
  let station :=
    { s.station with
      checksum := planChecksum s.station.plan
      phase := .listen
      listenTimer := some Config.listen
      statusTimer := some Config.statusPeriod }
  let s1 := (s.withStation station).withRx (s.rx.idled true)
  post .phaseChanged none none none (some (.phase .listen))
    (takeNext (forEach listenEntry (enqueue TxQueue.addStatus s1)))

/-! ## The timers (R108, R109) -/

/-- The listen timer runs out (R109). -/
def enterActive (s : State) : State :=
  let flag := s.peers.isolated
  changePhase .active (fun s => reportFlag flag (evaluateAll (refreshIsolated none s)))
    (s.withStation { s.station with listenTimer := none })

/-- The status period timer runs out (R108). -/
def statusPeriod (s : State) : State :=
  requestStatus (s.withStation { s.station with statusTimer := some Config.statusPeriod })

/-! ## LEAVE (R111, R144) -/

/-- The RELEASE entries of LEAVE on the queue, in their order (R111, step 2). -/
def TxQueue.addReleases (q : TxQueue) (xs : List ReleaseEntry) : TxQueue := xs.foldl TxQueue.addRelease q

/-- The Transmitter at LEAVE (R144, case 2): queued CLAIMs go, the RELEASE entries and the final STATUS are queued, a
STATUS in flight without an attempt is dropped, and a READY Transmitter takes the head. -/
def leaveTransmitter (xs : List ReleaseEntry) (s : State) : State :=
  let q := (TxQueue.addReleases { s.tx.queue with claims := [] } xs).addStatus
  let tx := { s.tx with queue := q }
  let tx' := match s.tx.flight with
    | some f => if f.frame = .status ∧ f.attempts = 0 then { tx with flight := none, state := .ready } else tx
    | none => tx
  takeNext (s.withTx tx')

/-- What the blocks do on the report of LEAVING (R111, steps 1 to 4). -/
def leaveBlocks (s : State) : State :=
  let r := leaveEntries allSixteen (stopTimers s)
  refreshIsolated none (leaveTransmitter r.2 r.1)

/-- LEAVE accepted in LISTEN or ACTIVE (R111). -/
def leaveStation (s : State) : State := changePhase .leaving leaveBlocks s

/-- The Station Controller is informed of a finished frame in LEAVING; with an empty queue the leave frames are done
(R112). -/
def frameFinished (s : State) : State :=
  if s.station.phase = .leaving ∧ s.tx.queue.isEmpty = true ∧ s.tx.flight = none then
    changePhase .detached (fun s => s) s
  else s

/-! ## MUTED (R114, R144) -/

/-- The Transmitter at MUTED (R144, case 3): the queue is emptied, and a frame in flight is dropped at once unless it is
being driven. -/
def muteTransmitter (s : State) : State :=
  if s.tx.state = .driving then s.withTx { s.tx with queue := emptyQueue }
  else s.withTx { s.tx with queue := emptyQueue, flight := none, backOff := none, state := .ready }

/-- MUTED accepted (R114, steps 1 to 4). -/
def muteStation (cause : MuteCause) (s : State) : State :=
  post .muted none none none (some (.muted cause))
    (refreshIsolated none (muteTransmitter (forEach muteEntry (stopTimers (setPhase .muted s)))))

/-- A request for MUTED (R114): accepted in LISTEN, ACTIVE and LEAVING, and without effect elsewhere. -/
def requestMuted (cause : MuteCause) (s : State) : State :=
  if s.station.phase.sends then muteStation cause s else s

/-! ## RESTART and hard reset (R116, R117) -/

/-- A peer entry after RESTART: its counters are kept (R101). -/
def restartPeer (own p : StationId) (e : PeerEntry) : PeerEntry :=
  { resetPeer own p with accepted := e.accepted, lost := e.lost, duplicates := e.duplicates }

/-- RESTART (R116). -/
def restartStation (s : State) : State :=
  post .phaseChanged none none none (some (.phase .config))
    { s with
      oc := resetOwnership s.timebase
      cond := tabulate fun n => restartCondition (s.planOf n) (s.condition n)
      peers :=
        { entries := tabulate fun p => restartPeer s.station.ownId p (s.peer p)
          isolated := false
          clashCount := s.peers.clashCount }
      station := { s.station with phase := .config, listenTimer := none, statusTimer := none }
      rx := s.rx.idled false
      tx := { s.tx with state := .ready, queue := emptyQueue, flight := none, backOff := none, deafCount := 0 } }

/-- Every block at its hard-reset values, with an own ID and a level on RST (R117). The pins SFn and SDn keep their
levels; the queue of waiting commands and the model's own count are no part of the chip (log entry 25). -/
def resetBlocks (id : StationId) (rstLow : Bool) (s : State) : State :=
  { hardResetState id (tabulate fun n => ((s.condition n).sf, (s.condition n).sd)) with
    rstLow := rstLow, pending := s.pending, freeCount := s.freeCount }

/-- Hard reset (R117): while RST is low the blocks hold their hard-reset values, the own ID not sampled yet (log entry
25); when RST returns high, or power-on completes, the own ID is sampled. -/
def hardReset : RstLevel → State → State
  | .low, s => resetBlocks s.station.ownId true s
  | .high id, s => resetBlocks id false s

end Sys2Proof.Machine
end

