-- ==== Sys2Proof/Machine/Clock.lean ====
section
/-! DEFINITION. The commands that time, the pins and reset bring: HARD_RESET (R117), TIMEBASE_TICK (R1), the raw condition
(R75, R76) and the running out of each timer (R4, R28, R56, R77, R96, R108, R109). A timer runs out by its own command once
a tick has brought it to 0 (log entry 2); the command changes nothing otherwise (log entry 1). -/

namespace Sys2Proof.Machine

/-! ## What one tick does to each timer -/

/-- A count in milliseconds falls by 1 at a tick and stands at 0 (R3, R4, R76, R91). -/
def tickDown (t : Option Nat) : Option Nat := t.map fun k => k - 1

/-- A WTR timer at a tick: it falls by 1 at every 1000th tick counted from its start, and has run out when it reaches 0
(R4). -/
def WtrTimer.tick (w : WtrTimer) : WtrTimer :=
  if w.seconds = 0 then w
  else if w.ticks + 1 < Config.ticksPerSecond then { w with ticks := w.ticks + 1 }
  else { seconds := w.seconds - 1, ticks := 0, due := decide (w.seconds = 1) }

/-- A pending claim record at a tick (R3). -/
def ClaimRecord.tick (r : ClaimRecord) : ClaimRecord := { r with window := tickDown r.window }

/-- A Service Table entry at a tick (R3, R4). -/
def ServiceEntry.tick (e : ServiceEntry) : ServiceEntry :=
  { e with
    record := e.record.map ClaimRecord.tick
    wtr := e.wtr.map WtrTimer.tick
    retryHold := tickDown e.retryHold }

/-- What the Condition Monitor holds for a service at a tick (R76). -/
def ServiceCondition.tick (c : ServiceCondition) : ServiceCondition := { c with timer := tickDown c.timer }

/-- A Peer Table entry at a tick (R91). -/
def PeerEntry.tick (e : PeerEntry) : PeerEntry := { e with silence := tickDown e.silence }

/-- The Timebase raises its count by 1 and every block's timers count the tick (R1). The condition timers and the silence
timers run in every phase but CONFIG (R78, R91), in which they are absent. -/
def tick (s : State) : State :=
  let runs := decide (s.station.phase ≠ .config)
  { s with
    timebase := s.timebase + 1
    oc := { s.oc with entries := tabulate fun n => (s.entry n).tick }
    cond := tabulate fun n => if runs then (s.condition n).tick else s.condition n
    peers := { s.peers with entries := tabulate fun p => if runs then (s.peer p).tick else s.peer p }
    station :=
      { s.station with
        listenTimer := tickDown s.station.listenTimer
        statusTimer := tickDown s.station.statusTimer } }

/-- A Timebase tick (R1). While RST is low the Timebase stays at its hard-reset value (R117; log entry 25). -/
def timebaseTick (s : State) : State := if s.rstLow then s else tick s

/-! ## What each happening does -/

/-- SFn and SDn take two levels; the raw condition follows at once (R75), and its change acts on the condition timer in a
phase in which the timer runs (R76, R78). -/
def setPins (n : Service) (sf sd : Bool) (s : State) : State :=
  let s' := putCondition n { s.condition n with sf := sf, sd := sd, raw := rawOf sf sd } s
  if rawOf sf sd ≠ (s.condition n).raw ∧ s.station.phase ≠ .config then rawChanged n s' else s'

/-- The condition timer of service `n` runs out (R77). -/
def conditionRunsOut (n : Service) (s : State) : State :=
  if (s.condition n).timer = some 0 then debounce n s else s

/-- The WTR timer of entry `n` has run out and stays present at 0; the service is evaluated (R4, R14, R56). -/
def wtrRunsOut (n : Service) (s : State) : State :=
  match (s.entry n).wtr with
  | some w =>
    if w.due then evaluate n (putEntry n { s.entry n with wtr := some { w with due := false } } s) else s
  | none => s

/-- The retry hold of entry `n` reaches 0 and is removed; the service is evaluated (R4, R14). -/
def retryRunsOut (n : Service) (s : State) : State :=
  if (s.entry n).retryHold = some 0 then evaluate n (putEntry n { s.entry n with retryHold := none } s) else s

/-- Window remaining of entry `n`'s record reaches 0 (R3, R28). -/
def windowRunsOut (n : Service) (s : State) : State :=
  match (s.entry n).record with
  | some r => if r.window = some 0 then endWindow n r s else s
  | none => s

/-- The silence timer of peer `p` reaches 0 (R96). -/
def peerTimerRunsOut (p : StationId) (s : State) : State :=
  if (s.peer p).silence = some 0 then silenceRunsOut p s else s

/-- The listen timer, which runs in LISTEN, reaches 0 (R109). -/
def listenRunsOut (s : State) : State :=
  if s.station.listenTimer = some 0 ∧ s.station.phase = .listen then enterActive s else s

/-- The status period timer, which runs in LISTEN and ACTIVE, reaches 0 (R108). -/
def statusRunsOut (s : State) : State :=
  if s.station.statusTimer = some 0 ∧ (s.station.phase = .listen ∨ s.station.phase = .active) then statusPeriod s else s

/-! ## The commands -/

/-- HARD_RESET (R117). -/
def execHardReset (rst : RstLevel) (s : State) : Host.Outcome State Fault Refusal := .next (hardReset rst s)

/-- TIMEBASE_TICK (R1). -/
def execTimebaseTick (s : State) : Host.Outcome State Fault Refusal := .next (timebaseTick s)

/-- RAW_CONDITION_CHANGE (R75, R76). -/
def execRawConditionChange (n : Service) (sf sd : Bool) (s : State) : Host.Outcome State Fault Refusal :=
  .next (setPins n sf sd s)

/-- CONDITION_TIMER_RUNS_OUT (R77). -/
def execConditionTimerRunsOut (n : Service) (s : State) : Host.Outcome State Fault Refusal :=
  .next (conditionRunsOut n s)

/-- WTR_TIMER_RUNS_OUT (R56). -/
def execWtrTimerRunsOut (n : Service) (s : State) : Host.Outcome State Fault Refusal := .next (wtrRunsOut n s)

/-- RETRY_HOLD_RUNS_OUT (R4). -/
def execRetryHoldRunsOut (n : Service) (s : State) : Host.Outcome State Fault Refusal := .next (retryRunsOut n s)

/-- CLAIM_WINDOW_END (R28). -/
def execClaimWindowEnd (n : Service) (s : State) : Host.Outcome State Fault Refusal := .next (windowRunsOut n s)

/-- SILENCE_TIMER_RUNS_OUT (R96). -/
def execSilenceTimerRunsOut (p : StationId) (s : State) : Host.Outcome State Fault Refusal :=
  .next (peerTimerRunsOut p s)

/-- LISTEN_TIMER_RUNS_OUT (R109). -/
def execListenTimerRunsOut (s : State) : Host.Outcome State Fault Refusal := .next (listenRunsOut s)

/-- STATUS_PERIOD_TIMER_RUNS_OUT (R108). -/
def execStatusPeriodTimerRunsOut (s : State) : Host.Outcome State Fault Refusal := .next (statusRunsOut s)

end Sys2Proof.Machine
end

