-- ==== Sys2Proof/Machine/Transmit.lean ====
section
/-! DEFINITION. The Transmitter's attempts (R136 to R144): the start of an attempt with the cancellation check and the
building of the frame, the judgement of the readback, and what follows CLEAN, COLLIDED and DEAF. -/

namespace Sys2Proof.Machine

/-! ## Building the content (R136) -/

/-- The phase a STATUS publishes (R103); no attempt of a STATUS begins in another phase. -/
def Phase.published : Phase → StatusPhase
  | .listen => .listen
  | .leaving => .leaving
  | .active => .active
  | .config => .active
  | .detached => .active
  | .muted => .active

/-- The held list: the entries that are HELD, in ascending order, with their epochs (R136). -/
def State.heldList (s : State) : List (Service × Epoch) :=
  (allSixteen.filter fun n => decide ((s.entry n).state = .held)).map fun n => (n, (s.entry n).heldEpoch)

/-- The body of a STATUS built now (R136). -/
def State.statusBody (s : State) : StatusBody :=
  { phase := s.station.phase.published, isolated := s.peers.isolated, services := tabulate s.ownByte,
    held := s.heldList }

/-- The body of a CLAIM from the own record it announces (R20, R136). -/
def ClaimRecord.body (r : ClaimRecord) (n : Service) : ClaimBody :=
  { service := n, epoch := r.epoch, mode := r.mode, claimed := r.claimed }

/-- The body of the frame in flight, built from the state that stands now; `none` for a CLAIM that fails the cancellation
check (R136). -/
def State.buildBody (s : State) : TxFrame → Option FrameBody
  | .status => some (.status s.statusBody)
  | .claim n e => (s.ownClaimAt n e).map fun r => .claim (r.body n)
  | .release es => some (.release es)
  | .object es => some (.object es)

/-- The content of a frame of this station with a body and a sequence number (R136). -/
def State.buildContent (s : State) (body : FrameBody) (q : Byte) : List Byte :=
  frameBytes { sender := s.station.ownId, seq := q, checksum := s.station.checksum, body := body }

/-! ## Finishing a frame (R135, R140, R142) -/

/-- The frame in flight is finished: the Station Controller is informed in LEAVING, and the Transmitter becomes READY and
takes the next head (R112, R135, R140). -/
def finishFrame (s : State) : State :=
  let s1 := frameFinished (s.withTx { s.tx with flight := none, backOff := none })
  takeNext (s1.withTx { s1.tx with state := .ready })

/-! ## Starting an attempt (R136) -/

/-- An attempt begins (R136): the first attempt is given a sequence number and a content; then the attempt is counted and
driven. -/
def beginAttempt (f : Flight) (body : FrameBody) (s : State) : State :=
  let f1 : Flight :=
    if f.attempts = 0 then { f with seq := some s.tx.nextSeq, content := some (s.buildContent body s.tx.nextSeq) }
    else f
  let next := if f.attempts = 0 then s.tx.nextSeq + 1 else s.tx.nextSeq
  s.withTx { s.tx with state := .driving, nextSeq := next, flight := some { f1 with attempts := f.attempts + 1 } }

/-- A WAITING Transmitter on an idle line (R136): a CLAIM whose record is gone is dropped, any other frame begins an
attempt. -/
def attemptStart (s : State) : State :=
  if s.tx.state = .waiting ∧ s.station.phase.sends ∧ s.rx.receiving = true ∧ s.rx.decoder = .lineIdle then
    match s.tx.flight with
    | some f =>
      match s.buildBody f.frame with
      | some body => beginAttempt f body s
      | none => finishFrame s
    | none => s
  else s

/-! ## The readback (R137) -/

/-- The content bits of the attempt. -/
def Flight.contentBits (f : Flight) : List Bool := bitsOfBytes (f.content.getD [])

/-- The symbols the attempt drives (R119, R136). -/
def Flight.driven (f : Flight) : List Symbol := codeFrame f.contentBits

/-- What the Frame Receiver's report of one bit time finds against an attempt (R137, case 2): a content byte completed
with a difference, a code error, or a frame other than the attempt's. -/
def reportFinds (content : List Bool) (r : Receiver) : LineEvent → Bool
  | .quiet => decide (r.assembled.length % 8 = 0 ∧ r.assembled ≠ content.take r.assembled.length)
  | .idle => false
  | .codeError => true
  | .frameEnd c past =>
    match judgeFrame c past with
    | .good _ => decide (c ≠ content)
    | .crcError => true
    | .formatError => true

/-- The judgement of an attempt, bit time by bit time (R137): `n` bit times have passed, `seen` tells whether one of them
carried a pulse and `missed` whether a driven pulse was not seen. The receiver, the driven symbols and the line are
those of the bit times that remain; after its last symbol the attempt drives nothing, and waits for what the Frame
Receiver reports (log entry 20). The answer is the outcome with the receiver after the bit time of the finding and the part of the line after
it. -/
def judgeAttempt (content : List Bool) :
    Nat → Bool → Bool → Receiver → List Symbol → List Symbol →
      Option (AttemptOutcome × Receiver × LineEvent × List Symbol)
  | _, _, _, _, _, [] => none
  | n, seen, missed, r, ds, b :: bs =>
    let d := ds.headD .empty
    let (r', ev) := r.read b
    let seen' := seen || isPulse b
    let missed' := missed || (isPulse d && !isPulse b)
    if seen' = true ∧ (missed' = true ∨ isPulse d ≠ isPulse b ∨ reportFinds content r' ev = true) then
      some (.collided, r', ev, bs)
    else if seen' = false ∧ n + 1 = 8 then some (.deaf, r', ev, bs)
    else
      match ev with
      | .frameEnd _ _ => some (.clean, r', ev, bs)
      | .quiet => judgeAttempt content (n + 1) seen' missed' r' ds.tail bs
      | .idle => judgeAttempt content (n + 1) seen' missed' r' ds.tail bs
      | .codeError => judgeAttempt content (n + 1) seen' missed' r' ds.tail bs

/-- The judgement of the attempt being driven on a line that begins with the attempt's first bit time. -/
def State.judge (s : State) (f : Flight) (line : List Symbol) :
    Option (AttemptOutcome × Receiver × LineEvent × List Symbol) :=
  judgeAttempt f.contentBits 0 false false s.rx f.driven line

/-! ## After an attempt (R140 to R144) -/

/-- A frame is given up after its eighth attempt (R142, steps 2 to 5). -/
def giveUp (f : Flight) (s : State) : State :=
  let s1 := s.withTx { s.tx with giveUps := satInc s.tx.giveUps }
  match f.frame with
  | .claim n e =>
    finishFrame (claimGivenUp n e (post .txGiveUp (some n) none (some e) (some (.frame .claim)) s1))
  | .status => finishFrame (post .txGiveUp none none none (some (.frame .status)) s1)
  | .release _ => finishFrame (post .txGiveUp none none none (some (.frame .release)) s1)
  | .object _ => finishFrame (post .txGiveUp none none none (some (.frame .object)) s1)

/-- In MUTED the attempt's frame is dropped when the attempt ends (R144, case 3). -/
def dropMuted (s : State) : State :=
  s.withTx { s.tx with state := .ready, flight := none, backOff := none }

/-- A back-off of some bit times (R141). -/
def backOff (bits : Nat) (s : State) : State :=
  s.withTx { s.tx with state := .backingOff, backOff := some bits }

/-- An attempt ends CLEAN (R140). -/
def endClean (f : Flight) (s : State) : State :=
  let s1 := s.withTx { s.tx with framesSent := satInc s.tx.framesSent, deafCount := 0 }
  if s.station.phase = .muted then dropMuted s1
  else
    match f.frame with
    | .claim n e => finishFrame (claimSentClean n e s1)
    | .status => finishFrame s1
    | .release _ => finishFrame s1
    | .object _ => finishFrame s1

/-- The back-off after a collision: (1 + own ID) slots (R141). -/
def State.collisionBackOff (s : State) : Nat := (1 + s.station.ownId.val) * Config.slot

/-- An attempt ends COLLIDED (R141, R142). -/
def endCollided (f : Flight) (s : State) : State :=
  let s1 := s.withTx { s.tx with collisions := satInc s.tx.collisions, deafCount := 0 }
  if s.station.phase = .muted then dropMuted s1
  else if f.attempts < Config.attemptLimit then backOff s.collisionBackOff s1
  else giveUp f s1

/-- An attempt ends DEAF (R141 to R143). -/
def endDeaf (f : Flight) (s : State) : State :=
  let deaf := min (s.tx.deafCount + 1) Config.deafLimit
  let s1 := s.withTx { s.tx with deafAttempts := satInc s.tx.deafAttempts, deafCount := deaf }
  if s.station.phase = .muted then dropMuted s1
  else if deaf = Config.deafLimit then requestMuted .deaf (s1.withTx { s1.tx with state := .halted })
  else if f.attempts < Config.attemptLimit then backOff Config.slot s1
  else giveUp f s1

/-! ## The frame's end at the own receiver -/

/-- The receiver after the own frame was read back whole (R123, R124): idle again after the final violation, whose
polarity is the last driven pulse's, and one good frame more. -/
def Receiver.afterOwnFrame (r : Receiver) (driven : List Symbol) : Receiver :=
  { r with
    decoder := .seekIdle, emptyCount := 0, lastPolarity := lastPulse r.lastPolarity driven, assembled := [],
    overrun := false, lastMark := none, goodFrames := satInc r.goodFrames }

/-- The attempt being driven, with the frame in flight. -/
def State.drivenFlight (s : State) : Option Flight :=
  if s.tx.state = .driving then s.tx.flight else none

/-- An attempt's readback was the frame that was driven (R137, case 3): the receiver counts the good frame and the
Transmitter ends the attempt, in one action (R152). -/
def attemptClean (s : State) : State :=
  match s.drivenFlight with
  | some f => endClean f (s.withRx (s.rx.afterOwnFrame f.driven))
  | none => s

/-- An attempt's first eight bit times carried no pulse (R137, case 1); the decoder stays in LINE_IDLE (R120). -/
def attemptDeaf (s : State) : State :=
  match s.drivenFlight with
  | some f => endDeaf f s
  | none => s

end Sys2Proof.Machine
end

