-- ==== Sys2Proof/Machine/Bus.lean ====
section
/-! DEFINITION. What the line brings: where good frames go (R126), ID clashes (R99), and the reading of a line by the
Frame Receiver while an attempt is driven and while none is (R127). -/

namespace Sys2Proof.Machine

/-- The detail of an ID_CLASH: the count, shown as 255 above 255 (Table 10-4). -/
def clashDetail (c : Word16) : Byte := byteOf (min c.toNat 255)

/-- An ID clash (R99): counted, posted, and MUTED asked for. -/
def idClash (s : State) : State :=
  let count := satInc s.peers.clashCount
  requestMuted .idClash
    (post .idClash none (some s.station.ownId) none (some (.count (clashDetail count)))
      (s.withPeers { s.peers with clashCount := count }))

/-- A good frame judged while no attempt is driven is handed on by its sender ID (R126, R139). -/
def routeFrame (f : Frame) (s : State) : State :=
  if f.sender = s.station.ownId then
    match s.tx.flight with
    | some _ => s
    | none => idClash s
  else takeFrame f s

/-- A frame has ended while no attempt is driven: it is judged, counted and, when good, handed on (R123, R124, R126). -/
def frameEnds (content : List Bool) (past : Bool) (r : Receiver) (s : State) : State :=
  let outcome := judgeFrame content past
  let s1 := s.withRx (r.count outcome)
  match outcome with
  | .good f => routeFrame f s1
  | .crcError => s1
  | .formatError => s1

/-- Bit times of a back-off that have passed (R141). -/
def passBits (k : Nat) (s : State) : State :=
  match s.tx.state, s.tx.backOff with
  | .backingOff, some b => s.withTx { s.tx with backOff := some (b - k) }
  | _, _ => s

/-- The attempt ends COLLIDED in a bit time that brought `ev` out of the decoder (R124, R126, R127, R141). -/
def collidedWith (f : Flight) (r : Receiver) (ev : LineEvent) (s : State) : State :=
  match ev with
  | .frameEnd c past =>
    let outcome := judgeFrame c past
    let s1 := endCollided f (s.withRx (r.count outcome))
    match outcome with
    | .good g => if g.sender = s.station.ownId then s1 else takeFrame g s1
    | .crcError => s1
    | .formatError => s1
  | .quiet => endCollided f (s.withRx r)
  | .idle => endCollided f (s.withRx r)
  | .codeError => endCollided f (s.withRx r)

/-- A line, read from the attempt's first bit time, on which the attempt is found COLLIDED in the last bit time (R137). -/
def attemptCollided (line : List Symbol) (s : State) : State :=
  match s.drivenFlight with
  | some f =>
    match s.judge f line with
    | some (.collided, r, ev, []) => collidedWith f r ev s
    | _ => s
  | none => s

/-- A frame ends in the last bit time of the line: the readback of the attempt being driven (R127), or a frame that is
judged and handed on (R126). -/
def frameReceived (line : List Symbol) (s : State) : State :=
  if s.rx.receiving = false then s
  else
    match s.drivenFlight with
    | some f =>
      match s.judge f line with
      | some (.clean, _, _, []) => attemptClean s
      | some (.collided, r, .frameEnd c past, []) => collidedWith f r (.frameEnd c past) s
      | _ => s
    | none =>
      match s.rx.run line with
      | some (r, .frameEnd c past) => frameEnds c past r (passBits line.length s)
      | _ => s

/-- A code error is found in the last bit time of the line (R121, R122); during an attempt it ends it COLLIDED (R127,
R137). -/
def codeError (line : List Symbol) (s : State) : State :=
  if s.rx.receiving = false then s
  else
    match s.drivenFlight with
    | some f =>
      match s.judge f line with
      | some (.collided, r, .codeError, []) => collidedWith f r .codeError s
      | _ => s
    | none =>
      match s.rx.run line with
      | some (r, .codeError) => { passBits line.length s with rx := r }
      | _ => s

/-- The line becomes idle in the last bit time of the line (R120). -/
def lineIdle (line : List Symbol) (s : State) : State :=
  if s.rx.receiving = false ∨ s.tx.state = .driving then s
  else
    match s.rx.run line with
    | some (r, .idle) => { passBits line.length s with rx := r }
    | _ => s

/-- The back-off ends with the last bit time of the line, and the Transmitter becomes WAITING (R141). -/
def backOffEnd (line : List Symbol) (s : State) : State :=
  if s.tx.state = .backingOff ∧ s.tx.backOff = some line.length ∧ s.rx.receiving = true then
    match s.rx.run line with
    | some (r, .quiet) => (s.withRx r).withTx { s.tx with state := .waiting, backOff := none }
    | some (r, .idle) => (s.withRx r).withTx { s.tx with state := .waiting, backOff := none }
    | _ => s
  else s

end Sys2Proof.Machine
end

