-- ==== Sys2Proof/Machine/Coordination.lean ====
section
/-! DEFINITION. The commands of the coordination bus: what the Frame Receiver finds on the line (R120 to R124) and the
Transmitter's attempts (R136 to R143). -/

namespace Sys2Proof.Machine

/-- FRAME_RECEIVED (R123, R124, R126, R127). -/
def execFrameReceived (line : List Symbol) (s : State) : Host.Outcome State Fault Refusal :=
  .next (frameReceived line s)

/-- CODE_ERROR (R121, R122, R127). -/
def execCodeError (line : List Symbol) (s : State) : Host.Outcome State Fault Refusal := .next (codeError line s)

/-- ATTEMPT_START (R136). -/
def execAttemptStart (s : State) : Host.Outcome State Fault Refusal := .next (attemptStart s)

/-- ATTEMPT_CLEAN (R140). -/
def execAttemptClean (s : State) : Host.Outcome State Fault Refusal := .next (attemptClean s)

/-- ATTEMPT_COLLIDED (R141, R142). -/
def execAttemptCollided (line : List Symbol) (s : State) : Host.Outcome State Fault Refusal :=
  .next (attemptCollided line s)

/-- ATTEMPT_DEAF (R141 to R143). -/
def execAttemptDeaf (s : State) : Host.Outcome State Fault Refusal := .next (attemptDeaf s)

/-- BACK_OFF_END (R141). -/
def execBackOffEnd (line : List Symbol) (s : State) : Host.Outcome State Fault Refusal := .next (backOffEnd line s)

/-- LINE_IDLE (R120). -/
def execLineIdle (line : List Symbol) (s : State) : Host.Outcome State Fault Refusal := .next (lineIdle line s)

end Sys2Proof.Machine
end

