-- ==== Sys2Proof/Machine/HostPort.lean ====
section
/-! DEFINITION. The Host Port: the snapshot buffers (R151, Tables 11-6 and 11-8), every byte a read returns (R148, R158,
Table 11-5), the Event Queue's pop (R154), and what a byte written at each address does (R148 to R150). -/

namespace Sys2Proof.Machine

/-! ## Snapshot buffers (R151) -/

/-- The bytes of an optional field, 00h while it is absent (R158). -/
def optByte (b : Option Byte) : Byte := b.getD 0

/-- A 16-bit value as two bytes, high byte first (R158). -/
def twoBytes (w : Word16) : List Byte := [hiByte w, loByte w]

/-- The record flags of Table 11-6. -/
def recordFlags (r : ClaimRecord) : Byte :=
  let takeover := decide (r.mode ≠ .vacant)
  byteOf
    (bit takeover + 2 * bit (decide (r.sent = some .sent)) + 4 * (if takeover then r.listing.code else 0) +
      16 * bit r.releaseHeard)

/-- The record bytes 1Dh to 22h of Table 11-6. -/
def recordBytes : Option ClaimRecord → List Byte
  | none => [0, 0, 0, 0, 0, 0]
  | some r =>
    [byteOfIndex r.claimant, r.epoch, recordFlags r, r.claimed.encode, optByte (r.mode.target.map byteOfIndex),
      optByte (r.window.map byteOf)]

/-- The presence byte 1Ch of Table 11-6. -/
def entryPresence (e : ServiceEntry) (drv timer : Bool) : Byte :=
  byteOf
    (bit e.epoch.isSome + 2 * bit e.record.isSome + 4 * bit (e.record.bind fun r => r.mode.target).isSome +
      8 * bit (e.record.bind fun r => r.window).isSome + 16 * bit e.wtr.isSome + 32 * bit e.retryHold.isSome +
      64 * bit timer + 128 * bit drv)

/-- The Service snapshot buffer, 19h to 2Ah (Table 11-6). -/
def State.serviceBytes (s : State) (n : Service) : List Byte :=
  let e := s.entry n
  let c := s.condition n
  [byteOf e.state.code, (e.owner.map byteOfIndex).getD 0xFF, optByte e.epoch,
      entryPresence e (look s.oc.drv n) c.timer.isSome] ++
    recordBytes e.record ++
    [optByte (e.wtr.map fun w => byteOf w.seconds), optByte (e.retryHold.map byteOf)] ++
    twoBytes e.changed ++
    [byteOf (c.raw.code + 4 * c.debounced.code + 16 * c.request.code), (s.ownByte n).encode] ++
    twoBytes (BitVec.ofNat 16 (c.timer.getD 0))

/-- The published bytes 5Bh to 7Eh of Table 11-8. -/
def publishedBytes : Option StatusBody → List Byte
  | none => List.replicate 36 0
  | some b =>
    let held := fun n : Service => decide (b.listing n ≠ none)
    let flags := allSixteen.foldl (fun w n => w + bit (held n) * 2 ^ n.val) 0
    [byteOf b.phase.code, byteOf (bit b.isolated)] ++ b.services.toList.map ServiceByte.encode ++
      twoBytes (BitVec.ofNat 16 flags) ++ allSixteen.map fun n => optByte (b.listing n)

/-- The Peer Table entry as the snapshots copy it: at the own ID the state is SELF, every optional field is absent and the
counters are 0 (R151). -/
def State.copiedPeer (s : State) (p : StationId) : PeerEntry :=
  if p = s.station.ownId then resetPeer p p else s.peer p

/-- The Peer snapshot buffer, 4Eh to 7Eh (Table 11-8). -/
def State.peerBytes (s : State) (p : StationId) : List Byte :=
  let e := s.copiedPeer p
  let presence :=
    bit e.lastSeq.isSome + 2 * bit e.silence.isSome + 4 * bit e.data.isSome + 8 * bit e.checksumSeen.isSome
  [byteOf e.state.code, byteOf presence, optByte e.lastSeq, optByte (e.silence.map byteOf), byteOf e.inOrder] ++
    twoBytes (e.checksumSeen.getD 0) ++ twoBytes e.accepted ++ twoBytes e.lost ++ twoBytes e.duplicates ++
    publishedBytes e.data

/-- The Counter snapshot buffer, 2Ch to 43h (Table 11-5). -/
def State.counterBytes (s : State) (p : StationId) : List Byte :=
  let e := s.copiedPeer p
  twoBytes s.rx.goodFrames ++ twoBytes s.rx.codeErrors ++ twoBytes s.rx.crcErrors ++ twoBytes s.rx.formatErrors ++
    twoBytes s.tx.framesSent ++ twoBytes s.tx.collisions ++ twoBytes s.tx.deafAttempts ++ twoBytes s.tx.giveUps ++
    twoBytes s.peers.clashCount ++ twoBytes e.accepted ++ twoBytes e.lost ++ twoBytes e.duplicates

/-- A list of bytes as a buffer of `n` bytes. -/
def bufferOf (n : Nat) (bytes : List Byte) : Vector Byte n := Vector.ofFn fun i : Fin n => bytes.getD i.val 0

/-! ## Reads (R148, R158) -/

/-- The plan flags byte (R157). -/
def PlanRecord.flagsByte (r : PlanRecord) : Byte := byteOf (bit r.defined + 2 * bit r.revertive)

/-- The presence byte 46h of Table 11-7. -/
def EventRecord.presence (e : EventRecord) : Byte :=
  byteOf (bit e.service.isSome + 2 * bit e.peer.isSome + 4 * bit e.epoch.isSome + 8 * bit e.detail.isSome)

/-- The latch bytes 45h to 4Ch (Table 11-7). -/
def EventRecord.latchBytes (e : EventRecord) : List Byte :=
  [byteOf e.kind.code, e.presence, hiByte e.timestamp, loByte e.timestamp, optByte (e.service.map byteOfIndex),
    optByte (e.peer.map byteOfIndex), optByte e.epoch, optByte (e.detail.map Detail.code)]

/-- The kind that a fetch of the pop byte moves out of the queue; NONE when the queue is empty (R154). -/
def HostPort.popKind (h : HostPort) : EventKind :=
  match h.events with
  | [] => .none
  | e :: _ => e.kind

/-- The bytes of the windows from Identity to Plan, 00h to 17h (Table 11-5). -/
def State.lowBytes (s : State) : List Byte :=
  let r := s.planOf s.host.planSelect
  [0x6B, 0x16, 0x01, byteOf s.station.phase.code, byteOf (bit s.peers.isolated), byteOfIndex s.station.ownId,
      byteOf s.livePeers] ++
    twoBytes s.station.checksum ++
    [byteOf s.tx.deafCount, byteOf s.host.events.length, s.host.lost, s.host.argument, s.host.code,
      byteOf s.host.result.code, byteOf (bit s.host.irqEnable),
      byteOf (bit s.host.mask.service + 2 * bit s.host.mask.condition + 4 * bit s.host.mask.peer +
        8 * bit s.host.mask.station),
      byteOfIndex s.host.planSelect, r.flagsByte, r.wtr, byteOf r.rank.val, r.holdOff, s.station.plan.version,
      byteOfIndex s.station.plan.expectedPeers]

/-- Every byte of the host window map, 00h to 7Eh, as a read fetches it (Table 11-5). -/
def State.hostBytes (s : State) : List Byte :=
  s.lowBytes ++ byteOfIndex s.host.serviceSnap.select :: s.host.serviceSnap.bytes.toList ++
    byteOfIndex s.host.counterSnap.select :: s.host.counterSnap.bytes.toList ++
    byteOf s.host.popKind.code :: s.host.latch.latchBytes ++
    byteOfIndex s.host.peerSnap.select :: s.host.peerSnap.bytes.toList

/-- The byte a read fetches at an address; 00h past the end of a window and in no window (R148). -/
def hostRead (s : State) : HostAddress → Byte
  | .at a => s.hostBytes.getD a.toNat 0
  | .pastEnd => 0

/-! ## The Event Queue's pop (R154) -/

/-- The EVENTS_LOST record of a pop (R154). -/
def lostRecord (now : Word16) (lost : Byte) : EventRecord :=
  { kind := .eventsLost, timestamp := now, service := none, peer := none, epoch := none, detail := some (.count lost) }

/-- A pop of the Event Queue (R154). The NONE record of an empty queue has a free timestamp (log entry 7). -/
def popEvent (s : State) : State :=
  match s.host.events with
  | [] =>
    { s with
      host := { s.host with latch := noneRecord (Config.noneTimestamp s.freeCount) }
      freeCount := s.freeCount + 1 }
  | e :: rest =>
    if s.host.lost = 0 then s.withHost (HostPort.refreshIrq { s.host with events := rest, latch := e })
    else
      let events := rest ++ [lostRecord s.timebase s.host.lost]
      s.withHost (HostPort.refreshIrq { s.host with events := events, latch := e, lost := 0 })

/-! ## Transactions (R147) -/

/-- A data byte was taken or fetched at an address: in DATA the current address moves to the next one (R147, R148). -/
def moveAddress (a : HostAddress) (s : State) : State :=
  match s.host.txn with
  | .data dir _ => s.withHost { s.host with txn := .data dir (nextAddress a) }
  | .idle => s
  | .address => s

/-- A fetch of the pop byte: the byte that is shifted out carries the popped record's kind (R147, R154). -/
def fetchPop (s : State) : State :=
  let s' := popEvent s
  moveAddress (.at addrPop) (s'.withHost { s'.host with fetched := some (byteOf s.host.popKind.code) })

/-- The byte at the current address of a read transaction is fetched, and the address moves on (R147, R148). -/
def fetchByte (cur : HostAddress) (s : State) : State :=
  if cur = .at addrPop then fetchPop s
  else moveAddress cur (s.withHost { s.host with fetched := some (hostRead s cur) })

/-- One byte clocked at address `a` (R147): in a write transaction at `a` it is taken and acts by `take`, in a read
transaction at `a` the byte there is fetched, whatever HSDI carries (log entry 10), and either way the address moves on.
While HSEL is high HSCK is ignored, and at another address or in ADDRESS no such byte is clocked (log entry 1): nothing
happens. -/
def dataByte (a : HostAddress) (take : State → State) (s : State) : State :=
  match s.host.txn with
  | .data .write cur => if cur = a then moveAddress a (take s) else s
  | .data .read cur => if cur = a then fetchByte a s else s
  | .idle => s
  | .address => s

/-! ## Plan writes (R149) -/

/-- The plan select takes a service (R149). -/
def writePlanSelect (v : Byte) (s : State) : State :=
  match indexOfByte v with
  | some n => setResult .done (s.withHost { s.host with planSelect := n })
  | none => setResult .refusedArg s

/-- Whether a plan field refuses a value for its range (R149, case 2). -/
def planRefuses (r : PlanRecord) (f : PlanField) (v : Byte) : Bool :=
  match f with
  | .flags => false
  | .wtr => decide (v = 0)
  | .rank => decide (7 < v.toNat ∨ (v ≠ 0 ∧ r.defined = false))
  | .holdOff => false
  | .version => false
  | .expectedPeers => decide (15 < v.toNat)

/-- A plan record with a byte of the flags: undefining a service sets its rank to 0 (R149). -/
def PlanRecord.withFlags (r : PlanRecord) (v : Byte) : PlanRecord :=
  { r with
    defined := v.getLsbD 0
    revertive := v.getLsbD 1
    rank := if v.getLsbD 0 then r.rank else 0 }

/-- The plan with an accepted byte in a field of service `n` or of the station (R149, case 3). -/
def Plan.withField (p : Plan) (n : Service) (f : PlanField) (v : Byte) : Plan :=
  let r := look p.records n
  match f with
  | .flags => { p with records := place p.records n (r.withFlags v) }
  | .wtr => { p with records := place p.records n { r with wtr := v } }
  | .rank => { p with records := place p.records n { r with rank := ⟨v.toNat % 8, Nat.mod_lt _ (by decide)⟩ } }
  | .holdOff => { p with records := place p.records n { r with holdOff := v } }
  | .version => { p with version := v }
  | .expectedPeers => { p with expectedPeers := ⟨v.toNat % 16, Nat.mod_lt _ (by decide)⟩ }

/-- A byte written to a plan field: judged by phase and range, and when accepted it reaches the plan and the published
grade of its service (R85, R149). -/
def writePlanField (f : PlanField) (v : Byte) (s : State) : State :=
  let n := s.host.planSelect
  if s.station.phase ≠ .config then setResult .refusedPhase s
  else if planRefuses (s.planOf n) f v then setResult .refusedArg s
  else
    reform n (setResult .done (s.withStation { s.station with plan := s.station.plan.withField n f v }))

/-! ## Commands (R150) -/

/-- CLEAR_COUNTERS (R100, R128, R146, R150). -/
def clearCounters (s : State) : State :=
  let rx := { s.rx with goodFrames := 0, codeErrors := 0, crcErrors := 0, formatErrors := 0 }
  let tx := { s.tx with framesSent := 0, collisions := 0, deafAttempts := 0, giveUps := 0 }
  let entries := tabulate fun p => { s.peer p with accepted := 0, lost := 0, duplicates := 0 }
  setResult .done
    (((s.withRx rx).withTx tx).withPeers { s.peers with entries := entries, clashCount := 0 })

/-- START (R106, R150). -/
def commandStart (s : State) : State :=
  if s.station.phase = .config then setResult .done (startStation s) else setResult .refusedPhase s

/-- LEAVE (R111, R150). -/
def commandLeave (s : State) : State :=
  if s.station.phase = .listen ∨ s.station.phase = .active then setResult .done (leaveStation s)
  else setResult .refusedPhase s

/-- RESTART (R116, R156). -/
def commandRestart (s : State) : State := setResult .done (restartStation s)

/-- A command with the argument that stands (R150). -/
def runCommand : Command → State → State
  | .start, s => commandStart s
  | .leave, s => commandLeave s
  | .restart, s => commandRestart s
  | .force, s => operatorRequest .force true s
  | .lockout, s => operatorRequest .lockout true s
  | .clear, s => operatorRequest .none false s
  | .clearCounters, s => clearCounters s

/-- The command code byte as last written (Table 10-1; log entry 6). -/
def storeCode (code : Byte) (s : State) : State := s.withHost { s.host with code := code }

/-- A byte written to the command code (R150). -/
def writeCode (code : Byte) (s : State) : State :=
  match commandOfCode code with
  | some c => runCommand c (storeCode code s)
  | none => setResult .refusedArg (storeCode code s)

/-- A command's byte at the command code address (R147, R150). -/
def takeCommand (c : Command) (s : State) : State :=
  dataByte (.at addrCode) (fun s => runCommand c (storeCode c.code s)) s

/-! ## Snapshot selects (R151) and IRQ control (R155) -/

/-- A byte written to the Service snapshot select (R151). -/
def selectService (v : Byte) (s : State) : State :=
  match indexOfByte v with
  | some n =>
    setResult .done
      (s.withHost { s.host with serviceSnap := { select := n, bytes := bufferOf 18 (s.serviceBytes n) } })
  | none => setResult .refusedArg s

/-- A byte written to the Peer snapshot select (R151). -/
def selectPeer (v : Byte) (s : State) : State :=
  match indexOfByte v with
  | some p =>
    setResult .done
      (s.withHost { s.host with peerSnap := { select := p, bytes := bufferOf 49 (s.peerBytes p) } })
  | none => setResult .refusedArg s

/-- A byte written to the Counter snapshot select (R151). -/
def selectCounter (v : Byte) (s : State) : State :=
  match indexOfByte v with
  | some p =>
    setResult .done
      (s.withHost { s.host with counterSnap := { select := p, bytes := bufferOf 24 (s.counterBytes p) } })
  | none => setResult .refusedArg s

/-- A byte written to an IRQ control register takes effect at once, and IRQ follows (R148, R155). -/
def writeIrqControl (reg : IrqRegister) (v : Byte) (s : State) : State :=
  match reg with
  | .enable => s.withHost (HostPort.refreshIrq { s.host with irqEnable := v.getLsbD 0 })
  | .classMask =>
    let mask := { service := v.getLsbD 0, condition := v.getLsbD 1, peer := v.getLsbD 2, station := v.getLsbD 3 }
    s.withHost { s.host with mask := mask }

/-! ## A byte written at any address (R148) -/

/-- What a byte written at an address does; at a read-only address, and in no window, it is discarded (R148). -/
def writeByte (a : BitVec 7) (v : Byte) (s : State) : State :=
  match a.toNat with
  | 0x0C => s.withHost { s.host with argument := v }
  | 0x0D => writeCode v s
  | 0x0F => writeIrqControl .enable v s
  | 0x10 => writeIrqControl .classMask v s
  | 0x11 => writePlanSelect v s
  | 0x12 => writePlanField .flags v s
  | 0x13 => writePlanField .wtr v s
  | 0x14 => writePlanField .rank v s
  | 0x15 => writePlanField .holdOff v s
  | 0x16 => writePlanField .version v s
  | 0x17 => writePlanField .expectedPeers v s
  | 0x18 => selectService v s
  | 0x2B => selectCounter v s
  | 0x4D => selectPeer v s
  | _ => s

/-- A byte written at an address or past the end of a window, where it is discarded (R148). -/
def writeAddress (addr : HostAddress) (v : Byte) (s : State) : State :=
  match addr with
  | .at a => writeByte a v s
  | .pastEnd => s

/-- A byte at any address (R147, R148). -/
def registerWrite (addr : HostAddress) (v : Byte) (s : State) : State := dataByte addr (writeAddress addr v) s

end Sys2Proof.Machine
end

