-- ==== Sys2Proof/Machine/HostCommands.lean ====
section
/-! DEFINITION. The commands of the Host Port: the commands of Table 10-2 (R150), the writes of the windows (R148, R149,
R151, R155), the pop of the Event Queue (R154) and the transaction (R147). The row of a data byte stands for one byte
clocked at its address (log entry 10). -/

namespace Sys2Proof.Machine

/-! ## Transactions (R147) -/

/-- HSEL goes low: a transaction begins while the Host Port is IDLE (R147); while RST is low HSEL is ignored (R156), and a
transaction then waits for its next fall (log entry 29). -/
def beginTransaction (s : State) : State :=
  match s.host.txn with
  | .idle => if s.rstLow then s else s.withHost { s.host with txn := .address, fetched := none }
  | .address => s
  | .data _ _ => s

/-- The direction of an address byte: bit 7, 1 for a read (R158). -/
def directionOf (v : Byte) : Direction := if v.getLsbD 7 then .read else .write

/-- The address of an address byte: bits 6 to 0 (R158). -/
def addressOf (v : Byte) : BitVec 7 := v.setWidth 7

/-- The address byte is complete: the Host Port enters DATA with that direction and address (R147). -/
def takeAddress (v : Byte) (s : State) : State :=
  match s.host.txn with
  | .address => s.withHost { s.host with txn := .data (directionOf v) (.at (addressOf v)) }
  | .idle => s
  | .data _ _ => s

/-- HSEL goes high: the Host Port returns to IDLE, whatever its state (R147). -/
def endTransaction (s : State) : State := s.withHost { s.host with txn := .idle, fetched := none }

/-! ## The commands -/

/-- START (R106, R150). -/
def execStart (s : State) : Host.Outcome State Fault Refusal := .next (takeCommand .start s)

/-- LEAVE (R111, R150). -/
def execLeave (s : State) : Host.Outcome State Fault Refusal := .next (takeCommand .leave s)

/-- RESTART (R116, R150). -/
def execRestart (s : State) : Host.Outcome State Fault Refusal := .next (takeCommand .restart s)

/-- FORCE (R81, R82). -/
def execForce (s : State) : Host.Outcome State Fault Refusal := .next (takeCommand .force s)

/-- LOCKOUT (R81, R83). -/
def execLockout (s : State) : Host.Outcome State Fault Refusal := .next (takeCommand .lockout s)

/-- CLEAR (R81, R84). -/
def execClear (s : State) : Host.Outcome State Fault Refusal := .next (takeCommand .clear s)

/-- CLEAR_COUNTERS (R150). -/
def execClearCounters (s : State) : Host.Outcome State Fault Refusal := .next (takeCommand .clearCounters s)

/-- UNKNOWN_COMMAND_CODE (R150): the byte at the command code; a byte that does name a command runs it (log entry 26). -/
def execUnknownCommandCode (code : Byte) (s : State) : Host.Outcome State Fault Refusal :=
  .next (dataByte (.at addrCode) (writeCode code) s)

/-- PLAN_SELECT_WRITE (R149). -/
def execPlanSelectWrite (value : Byte) (s : State) : Host.Outcome State Fault Refusal :=
  .next (dataByte (.at addrPlanSelect) (writePlanSelect value) s)

/-- PLAN_FIELD_WRITE (R149). -/
def execPlanFieldWrite (field : PlanField) (value : Byte) (s : State) : Host.Outcome State Fault Refusal :=
  .next (dataByte (.at (planFieldAddr field)) (writePlanField field value) s)

/-- SERVICE_SNAPSHOT_SELECT (R151). -/
def execServiceSnapshotSelect (value : Byte) (s : State) : Host.Outcome State Fault Refusal :=
  .next (dataByte (.at addrServiceSelect) (selectService value) s)

/-- PEER_SNAPSHOT_SELECT (R151). -/
def execPeerSnapshotSelect (value : Byte) (s : State) : Host.Outcome State Fault Refusal :=
  .next (dataByte (.at addrPeerSelect) (selectPeer value) s)

/-- COUNTER_SNAPSHOT_SELECT (R151). -/
def execCounterSnapshotSelect (value : Byte) (s : State) : Host.Outcome State Fault Refusal :=
  .next (dataByte (.at addrCounterSelect) (selectCounter value) s)

/-- IRQ_CONTROL_WRITE (R148, R155). -/
def execIrqControlWrite (reg : IrqRegister) (value : Byte) (s : State) : Host.Outcome State Fault Refusal :=
  .next (dataByte (.at (irqRegisterAddr reg)) (writeIrqControl reg value) s)

/-- EVENT_POP (R154): the pop byte is fetched; a byte written there is discarded (R148). -/
def execEventPop (s : State) : Host.Outcome State Fault Refusal := .next (dataByte (.at addrPop) (fun s => s) s)

/-- REGISTER_WRITE (R148, R150). -/
def execRegisterWrite (addr : HostAddress) (value : Byte) (s : State) : Host.Outcome State Fault Refusal :=
  .next (registerWrite addr value s)

/-- TRANSACTION_BEGIN (R147). -/
def execTransactionBegin (s : State) : Host.Outcome State Fault Refusal := .next (beginTransaction s)

/-- ADDRESS_BYTE (R147, R158). -/
def execAddressByte (value : Byte) (s : State) : Host.Outcome State Fault Refusal := .next (takeAddress value s)

/-- TRANSACTION_END (R147). -/
def execTransactionEnd (s : State) : Host.Outcome State Fault Refusal := .next (endTransaction s)

end Sys2Proof.Machine
end

