-- ==== Sys2Proof/Machine/Dispatch.lean ====
section
/-! DEFINITION. One arm per command of the PS16, each one direct call of its meaning. -/

namespace Sys2Proof.Machine

/-- The effect of a command on everything but the queue of waiting commands. -/
def exec (i : Instr) (s : State) : Host.Outcome State Fault Refusal :=
  match i with
  | .hardReset rst => Sys2Proof.Machine.execHardReset rst s
  | .timebaseTick => Sys2Proof.Machine.execTimebaseTick s
  | .rawConditionChange n sf sd => Sys2Proof.Machine.execRawConditionChange n sf sd s
  | .conditionTimerRunsOut n => Sys2Proof.Machine.execConditionTimerRunsOut n s
  | .wtrTimerRunsOut n => Sys2Proof.Machine.execWtrTimerRunsOut n s
  | .retryHoldRunsOut n => Sys2Proof.Machine.execRetryHoldRunsOut n s
  | .claimWindowEnd n => Sys2Proof.Machine.execClaimWindowEnd n s
  | .silenceTimerRunsOut p => Sys2Proof.Machine.execSilenceTimerRunsOut p s
  | .listenTimerRunsOut => Sys2Proof.Machine.execListenTimerRunsOut s
  | .statusPeriodTimerRunsOut => Sys2Proof.Machine.execStatusPeriodTimerRunsOut s
  | .frameReceived line => Sys2Proof.Machine.execFrameReceived line s
  | .codeError line => Sys2Proof.Machine.execCodeError line s
  | .attemptStart => Sys2Proof.Machine.execAttemptStart s
  | .attemptClean => Sys2Proof.Machine.execAttemptClean s
  | .attemptCollided line => Sys2Proof.Machine.execAttemptCollided line s
  | .attemptDeaf => Sys2Proof.Machine.execAttemptDeaf s
  | .backOffEnd line => Sys2Proof.Machine.execBackOffEnd line s
  | .start => Sys2Proof.Machine.execStart s
  | .leave => Sys2Proof.Machine.execLeave s
  | .restart => Sys2Proof.Machine.execRestart s
  | .force => Sys2Proof.Machine.execForce s
  | .lockout => Sys2Proof.Machine.execLockout s
  | .clear => Sys2Proof.Machine.execClear s
  | .clearCounters => Sys2Proof.Machine.execClearCounters s
  | .unknownCommandCode code => Sys2Proof.Machine.execUnknownCommandCode code s
  | .planSelectWrite value => Sys2Proof.Machine.execPlanSelectWrite value s
  | .planFieldWrite field value => Sys2Proof.Machine.execPlanFieldWrite field value s
  | .serviceSnapshotSelect value => Sys2Proof.Machine.execServiceSnapshotSelect value s
  | .peerSnapshotSelect value => Sys2Proof.Machine.execPeerSnapshotSelect value s
  | .counterSnapshotSelect value => Sys2Proof.Machine.execCounterSnapshotSelect value s
  | .irqControlWrite reg value => Sys2Proof.Machine.execIrqControlWrite reg value s
  | .eventPop => Sys2Proof.Machine.execEventPop s
  | .registerWrite addr value => Sys2Proof.Machine.execRegisterWrite addr value s
  | .lineIdle line => Sys2Proof.Machine.execLineIdle line s
  | .transactionBegin => Sys2Proof.Machine.execTransactionBegin s
  | .addressByte value => Sys2Proof.Machine.execAddressByte value s
  | .transactionEnd => Sys2Proof.Machine.execTransactionEnd s

end Sys2Proof.Machine
end

