-- ==== Sys2Proof/Machine/Pins.lean ====
section
/-! DEFINITION. The pins of the part (Table 11-11): what each output carries in a state (R42, R147, R155, R156, R159), what
the receiver reads from BP and BN (R159), and the division of CLK (R159). -/

namespace Sys2Proof.Machine

/-- What an output pin carries: a driven level, or nothing, so that it floats or is high-impedance. -/
inductive Level where
  | low
  | high
  | floating
deriving DecidableEq, Repr

/-- A driven level. -/
def levelOf (b : Bool) : Level := if b then .high else .low

/-- DRVn is high while it is on and low while it is off, and held low while RST is low (R117, R159). -/
def State.drvPin (s : State) (n : Service) : Level :=
  if s.rstLow then .low else levelOf (look s.oc.drv n)

/-- IRQ pulls low while it is asserted and floats while it is deasserted and while RST is low (R155, R159). -/
def State.irqPin (s : State) : Level := if s.rstLow = false ∧ s.host.irq = true then .low else .floating

/-- HSDO at the `k`-th falling edge of HSCK of a byte, counted from 0 (R147, R156, R158): not driven while HSEL is high and
while RST is low; driven in a transaction, in a read with the fetched byte, most significant bit first, elsewhere at a level
that the spec does not state (log entry 28). IDLE counts as HSEL high, a DESIGN CHOICE where HSEL is still low after RST
returned high (log entry 29). -/
def State.hsdoPin (s : State) (k : Fin 8) : Level :=
  let unstated : Level := levelOf (Config.hsdoUnstated s.freeCount k.val)
  if s.rstLow then .floating
  else
    match s.host.txn with
    | .idle => .floating
    | .address => unstated
    | .data .write _ => unstated
    | .data .read _ =>
      match s.host.fetched with
      | some b => levelOf (b.getLsbD (7 - k.val))
      | none => unstated

/-- What the Transmitter does to BP and BN in one bit time (R159): it leaves them undriven outside an attempt, and within
one drives one wire above the other for a pulse and neither for an empty bit time. -/
inductive BusDrive where
  | undriven
  | neither
  | bpAboveBn
  | bnAboveBp
deriving DecidableEq, Repr

/-- One bit time of an attempt on BP and BN (R119, R159). -/
def driveOf : Symbol → BusDrive
  | .empty => .neither
  | .pulse .positive => .bpAboveBn
  | .pulse .negative => .bnAboveBp

/-- BP and BN in the `k`-th bit time of the attempt being driven, counted from 0; undriven when none is, after its last
bit time, and while RST is low (R119, R136, R159). -/
def State.busDrive (s : State) (k : Nat) : BusDrive :=
  if s.rstLow then .undriven
  else
    match s.drivenFlight with
    | some f =>
      match f.driven[k]? with
      | some b => driveOf b
      | none => .undriven
    | none => .undriven

/-- What the receiver reads in a bit time from the voltage of BP above BN, in millivolts (R159, Table 11-12). -/
def symbolOfDifference (mV : Int) : Symbol :=
  if Config.receiveThreshold < mV then .pulse .positive
  else if mV < -Config.receiveThreshold then .pulse .negative
  else .empty

/-- Timebase ticks in some periods of CLK, from a tick on (R1, R159). -/
def ticksIn (periods : Nat) : Nat := periods / Config.clkPerTick

/-- Bit times in some periods of CLK, from the start of one on (R159). -/
def bitTimesIn (periods : Nat) : Nat := periods / Config.clkPerBit

end Sys2Proof.Machine
end

