-- ==== Sys2Proof/Safety.lean ====
section
/-! DEFINITION. What always holds of the PS16: the invariants that the statements speak of, each with the rule that gives
it, and what it means for a step to be safe. -/

namespace Sys2Proof.Machine

/-! ## Outputs and the Event Queue -/

/-- DRVn is on if and only if entry n is HELD (R42). -/
def State.DriveFollowsHeld (s : State) : Prop := ∀ n, look s.oc.drv n = decide ((s.entry n).state = .held)

/-- The Host Port's own consistency: IRQ is asserted while the enable is on and the Event Queue is not empty (R155); the
queue never holds more than 32 records, and the lost count is nonzero only while it is full (R153). -/
def HostPort.Sound (h : HostPort) : Prop :=
  h.irq = (h.irqEnable && !h.events.isEmpty) ∧ h.events.length ≤ 32 ∧ (h.lost ≠ 0 → h.events.length = 32)

/-! ## The Service Table -/

/-- The four conditions under which an entry may be HELD (R6). -/
def State.MayHold (s : State) (n : Service) : Prop :=
  s.station.phase = .active ∧ (s.planOf n).rank ≠ 0 ∧ (s.planOf n).defined = true ∧ (s.condition n).request ≠ .lockout

/-- A record's grade and rank are those of a candidate (R3). -/
def ClaimRecord.Fit (r : ClaimRecord) : Prop := r.claimed.grade ≠ .unav ∧ r.claimed.rank ≠ 0

/-- The sent flag and the window of an own claim: the window appears with the clean send (R3, R21). -/
def ClaimRecord.OwnTimes (r : ClaimRecord) : Prop :=
  (r.sent = some .queued ∧ r.window = none) ∨ (r.sent = some .sent ∧ r.window ≠ none)

/-- A watched claim has no sent flag, and its window runs from reception (R3, R24). -/
def ClaimRecord.WatchedTimes (r : ClaimRecord) : Prop := r.sent = none ∧ r.window ≠ none

/-- State, owner and record of an entry agree (Table 1-4, Table 1-5; R3, R5, R6, R7, R27): `own` is the own station ID,
`live` tells the LIVE peers, `may` is whether the entry may be HELD. -/
def ServiceEntry.Agrees (own : StationId) (live : StationId → Bool) (may : Prop) (e : ServiceEntry) : Prop :=
  match e.state with
  | .vacant => e.owner = none ∧ e.record = none
  | .held => e.owner = some own ∧ e.record = none ∧ may
  | .remote => e.record = none ∧ ∃ p, e.owner = some p ∧ p ≠ own ∧ live p = true
  | .orphaned => e.record = none ∧ ∃ p, e.owner = some p ∧ p ≠ own ∧ live p = false
  | .claiming =>
    e.owner ≠ some own ∧ may ∧ ∃ r, e.record = some r ∧ r.claimant = own ∧ r.Fit ∧ r.OwnTimes
  | .watching =>
    e.owner ≠ some own ∧
      ∃ r, e.record = some r ∧ r.claimant ≠ own ∧ live r.claimant = true ∧ r.Fit ∧ r.WatchedTimes

/-- Entry `n` agrees with the station, its peers and its plan. -/
def State.EntryAgrees (s : State) (n : Service) : Prop :=
  (s.entry n).Agrees s.station.ownId s.isLive (s.MayHold n)

/-! ## The Transmitter -/

/-- The services that a list of RELEASE or OBJECT entries names. -/
def UrgentFrame.services : UrgentFrame → List Service
  | .release es => es.map fun x => x.service
  | .object es => es.map fun x => x.service

/-- Whether an urgent frame is a RELEASE. -/
def UrgentFrame.isRelease : UrgentFrame → Bool
  | .release _ => true
  | .object _ => false

/-- The Transmit Queue holds at most one RELEASE, one OBJECT and one CLAIM for any one service, and every list names at
least one service and none twice (R131, R133, R136); at most one STATUS is so by its type. -/
structure TxQueue.Limited (q : TxQueue) : Prop where
  releases : (q.urgent.filter fun u => u.isRelease).length ≤ 1
  objects : (q.urgent.filter fun u => !u.isRelease).length ≤ 1
  lists : ∀ u ∈ q.urgent, u.services ≠ [] ∧ u.services.Nodup
  claims : (q.claims.map Prod.fst).Nodup

/-- The number of frames in the Transmit Queue. -/
def TxQueue.size (q : TxQueue) : Nat := q.urgent.length + q.claims.length + if q.status then 1 else 0

/-- A frame in flight names at least one service in its list, and none twice (R133, R136). -/
def TxFrame.Limited : TxFrame → Prop
  | .status => True
  | .claim _ _ => True
  | .release es => (es.map fun x => x.service) ≠ [] ∧ (es.map fun x => x.service).Nodup
  | .object es => (es.map fun x => x.service) ≠ [] ∧ (es.map fun x => x.service).Nodup

/-- The frame in flight agrees with the transmit state (Table 9-1, R135, R136, R141 to R143): its sequence number and
content are assigned at its first attempt, and at most eight attempts are made. -/
structure Flight.Agrees (f : Flight) (state : TxState) : Prop where
  frame : f.frame.Limited
  content : f.content = none ↔ f.attempts = 0
  seq : f.seq = none ↔ f.attempts = 0
  driving : state = .driving → 1 ≤ f.attempts ∧ f.attempts ≤ 8
  waiting : state = .waiting → f.attempts < 8
  backingOff : state = .backingOff → 1 ≤ f.attempts ∧ f.attempts < 8

/-- The Transmitter agrees with itself and with the phase, but for the taking of the next head (Table 9-1, R131, R143,
R144). -/
structure State.TxCore (s : State) : Prop where
  flight : s.tx.state = .ready ↔ s.tx.flight = none
  agrees : ∀ f, s.tx.flight = some f → f.Agrees s.tx.state
  backOff : s.tx.backOff ≠ none ↔ s.tx.state = .backingOff
  deaf : s.tx.deafCount ≤ 3
  queue : s.tx.queue.Limited
  silent : s.station.phase.sends = false →
    s.tx.queue = emptyQueue ∧ (s.tx.state = .ready ∨ (s.station.phase = .muted ∧ s.tx.state = .driving))

/-- The Transmitter is consistent: besides, HALTED does not outlast its action (R143, R144), and a READY Transmitter that
may send has nothing queued, since it takes the head at once (R135). -/
structure State.TxConsistent (s : State) : Prop extends s.TxCore where
  halted : s.tx.state ≠ .halted
  drained : s.tx.state = .ready → s.tx.queue = emptyQueue

/-! ## The whole part -/

/-- What the other blocks agree on: the SELF entry (R86), the published grades and classes (R79), the ranks of undefined
services (R79, R149), the isolated flag (R98), receiving (R129) and the tables in CONFIG (R11, R19, R101, R102). -/
structure State.BlocksAgree (s : State) : Prop where
  self : ∀ p, (s.peer p).state = .self ↔ p = s.station.ownId
  grades : ∀ n, (s.condition n).grade = formGrade (s.planOf n) (s.condition n).debounced (s.condition n).request
  classes : ∀ n, (s.condition n).cls = formClass (s.condition n).request
  ranks : ∀ n, (s.planOf n).defined = false → (s.planOf n).rank = 0
  isolated : s.peers.isolated = s.isolatedNow
  receiving : s.rx.receiving = decide (s.station.phase ≠ .config)
  configTable : s.station.phase = .config → ∀ n, (s.entry n).state = .vacant ∧ (s.entry n).epoch = none
  configPeers : s.station.phase = .config → ∀ p, ((s.peer p).state = .absent ∨ (s.peer p).state = .self) ∧
    (s.peer p).silence = none
  listenTimer : s.station.phase ≠ .listen → s.station.listenTimer = none
  statusTimer : s.station.phase ≠ .listen → s.station.phase ≠ .active → s.station.statusTimer = none

/-- While RST is low every block holds its hard-reset values (R117, R156): holding RST low once more changes nothing. -/
def State.ResetHeld (s : State) : Prop := s.rstLow = true → hardReset .low s = s

/-- The invariant of the part: RST, the drives, the Host Port, the Service Table, the Transmitter and the other blocks. -/
structure State.Consistent (s : State) : Prop where
  rst : s.ResetHeld
  drives : s.DriveFollowsHeld
  host : s.host.Sound
  table : ∀ n, s.EntryAgrees n
  blocks : s.BlocksAgree
  tx : s.TxConsistent

/-! ## Ranges -/

/-- Every counter of a timer lies in the range that the spec gives it, with 0 while its running out waits (log entry 2);
the back-off is at most 16 slots, and the assembled content at most the longest frame with its closing bits. -/
def State.InRange (s : State) : Prop :=
  (∀ n, (∀ k ∈ (s.entry n).retryHold, k ≤ 100) ∧ (∀ w ∈ (s.entry n).wtr, w.seconds ≤ 255 ∧ w.ticks < 1000) ∧
    (∀ r ∈ (s.entry n).record, ∀ k ∈ r.window, k ≤ 8) ∧ ∀ k ∈ (s.condition n).timer, k ≤ 2550) ∧
  (∀ p, (∀ k ∈ (s.peer p).silence, k ≤ 20) ∧ (s.peer p).inOrder ≤ 2) ∧
  (∀ k ∈ s.station.listenTimer, k ≤ 60) ∧ (∀ k ∈ s.station.statusTimer, k ≤ 4) ∧
  s.rx.emptyCount ≤ 12 ∧ s.rx.assembled.length ≤ 698 ∧ s.tx.deafCount ≤ 3 ∧ ∀ k ∈ s.tx.backOff, k ≤ 512

/-! ## The terms in which the statements speak -/

/-- The frames that the bus carries (R125): a held list ascends strictly, and a RELEASE or OBJECT list names at least one
service and none twice. -/
def FrameBody.WellFormed : FrameBody → Prop
  | .status b => (b.held.map Prod.fst).Pairwise (· < ·)
  | .claim _ => True
  | .release es => es ≠ [] ∧ (es.map fun x => x.service).Nodup
  | .object es => es ≠ [] ∧ (es.map fun x => x.service).Nodup

/-- A record posted now (R153). -/
def State.event (s : State) (kind : EventKind) (service : Option Service) (peer : Option StationId)
    (epoch : Option Epoch) (detail : Option Detail) : EventRecord :=
  { kind := kind, timestamp := s.timebase, service := service, peer := peer, epoch := epoch, detail := detail }

/-- All four class flags are on, and `k` more records find room (R153). -/
def State.CanRecord (s : State) (k : Nat) : Prop :=
  s.host.mask = { service := true, condition := true, peer := true, station := true } ∧ s.host.events.length + k ≤ 32

/-- The blocks other than the Ownership Controller are as before, but for the Transmit Queue with the frame taken from it
and for the Event Queue with its lost count and IRQ. -/
def State.OnlyOwnership (s t : State) : Prop :=
  t.timebase = s.timebase ∧ t.cond = s.cond ∧ t.peers = s.peers ∧ t.station = s.station ∧ t.rx = s.rx ∧
    t.tx = { s.tx with state := t.tx.state, queue := t.tx.queue, flight := t.tx.flight } ∧
    t.host = { s.host with events := t.host.events, lost := t.host.lost, irq := t.host.irq } ∧
    t.rstLow = s.rstLow ∧ t.pending = s.pending ∧ t.freeCount = s.freeCount

/-- Every entry of the Service Table but that of service `n`, and every drive but DRVn, is as before. -/
def State.OtherEntries (s t : State) (n : Service) : Prop :=
  ∀ m, m ≠ n → t.entry m = s.entry m ∧ look t.oc.drv m = look s.oc.drv m

/-- The entries of a RELEASE in the urgent class. -/
def UrgentFrame.releases : UrgentFrame → List ReleaseEntry
  | .release es => es
  | .object _ => []

/-- The entries of an OBJECT in the urgent class. -/
def UrgentFrame.objects : UrgentFrame → List ObjectEntry
  | .release _ => []
  | .object es => es

/-- The entries of a RELEASE in flight. -/
def TxFrame.releases : TxFrame → List ReleaseEntry
  | .release es => es
  | .status => []
  | .claim _ _ => []
  | .object _ => []

/-- The entries of an OBJECT in flight. -/
def TxFrame.objects : TxFrame → List ObjectEntry
  | .object es => es
  | .status => []
  | .claim _ _ => []
  | .release _ => []

/-- A CLAIM for service `n` with epoch `e` waits to be sent: queued, or in flight. -/
def State.ClaimWaits (s : State) (n : Service) (e : Epoch) : Prop :=
  (n, e) ∈ s.tx.queue.claims ∨ ∃ f ∈ s.tx.flight, f.frame = .claim n e

/-- A STATUS waits to be built: queued, or in flight without an attempt. -/
def State.StatusWaits (s : State) : Prop :=
  s.tx.queue.status = true ∨ ∃ f ∈ s.tx.flight, f.frame = .status ∧ f.attempts = 0

/-- A RELEASE entry waits to be sent: in the queued list, or in the list in flight. -/
def State.ReleaseWaits (s : State) (x : ReleaseEntry) : Prop :=
  (∃ u ∈ s.tx.queue.urgent, x ∈ u.releases) ∨ ∃ f ∈ s.tx.flight, x ∈ f.frame.releases

/-- An OBJECT entry waits to be sent: in the queued list, or in the list in flight. -/
def State.ObjectWaits (s : State) (x : ObjectEntry) : Prop :=
  (∃ u ∈ s.tx.queue.urgent, x ∈ u.objects) ∨ ∃ f ∈ s.tx.flight, x ∈ f.frame.objects

/-- The address at which the row of a data byte clocks its byte (R147, Table 11-5); none for a command that
is no data byte. -/
def hostAddress : Instr → Option HostAddress
  | .start => some (.at 0x0D)
  | .leave => some (.at 0x0D)
  | .restart => some (.at 0x0D)
  | .force => some (.at 0x0D)
  | .lockout => some (.at 0x0D)
  | .clear => some (.at 0x0D)
  | .clearCounters => some (.at 0x0D)
  | .unknownCommandCode _ => some (.at 0x0D)
  | .planSelectWrite _ => some (.at 0x11)
  | .planFieldWrite f _ => some (.at (planFieldAddr f))
  | .serviceSnapshotSelect _ => some (.at 0x18)
  | .peerSnapshotSelect _ => some (.at 0x4D)
  | .counterSnapshotSelect _ => some (.at 0x2B)
  | .irqControlWrite .enable _ => some (.at 0x0F)
  | .irqControlWrite .classMask _ => some (.at 0x10)
  | .eventPop => some (.at 0x44)
  | .registerWrite a _ => some a
  | .hardReset _ => none
  | .timebaseTick => none
  | .rawConditionChange _ _ _ => none
  | .conditionTimerRunsOut _ => none
  | .wtrTimerRunsOut _ => none
  | .retryHoldRunsOut _ => none
  | .claimWindowEnd _ => none
  | .silenceTimerRunsOut _ => none
  | .listenTimerRunsOut => none
  | .statusPeriodTimerRunsOut => none
  | .frameReceived _ => none
  | .codeError _ => none
  | .attemptStart => none
  | .attemptClean => none
  | .attemptCollided _ => none
  | .attemptDeaf => none
  | .backOffEnd _ => none
  | .lineIdle _ => none
  | .transactionBegin => none
  | .addressByte _ => none
  | .transactionEnd => none

/-- The current address after a data byte at address `a`: on by one within the window (R147, R148). -/
def Transaction.moved (t : Transaction) (a : HostAddress) : Transaction :=
  match t with
  | .data dir _ => .data dir (nextAddress a)
  | .idle => .idle
  | .address => .address

/-- The state after a byte at address `a` that does nothing but set the command result. -/
def State.answered (s : State) (a : BitVec 7) (r : CommandResult) : State :=
  s.withHost { s.host with result := r, txn := s.host.txn.moved (.at a) }

/-- The state after a byte at the command code that does nothing but set the command result (log entry 6). -/
def State.refusedCode (s : State) (code : Byte) (r : CommandResult) : State :=
  s.withHost { s.host with code := code, result := r, txn := s.host.txn.moved (.at addrCode) }

/-- The entry owned by nobody or by a peer, in the settled state of Table 1-5. -/
def State.SettledAs (s : State) (e : ServiceEntry) : Prop :=
  e.record = none ∧
    match e.owner with
    | none => e.state = .vacant
    | some p => e.state = if s.isLive p then .remote else .orphaned

/-- The own claim `r` of entry `n` has been withdrawn when SENT, or abandoned when QUEUED (R35, R36): the record is gone and
the entry settled, the retry hold runs, and a SENT claim's RELEASE(WITHDRAW) waits, where an abandoned one queues none: a busy
Transmitter is left with the early STATUS alone (R80). -/
structure State.Withdrawn (s t : State) (n : Service) (r : ClaimRecord) : Prop where
  settled : s.SettledAs (t.entry n)
  owner : (t.entry n).owner = (s.entry n).owner
  epoch : (t.entry n).epoch = (s.entry n).epoch
  wtr : (t.entry n).wtr = none
  retryHold : (t.entry n).retryHold = some 100
  changed : (t.entry n).changed = s.timebase
  drv : look t.oc.drv n = false
  others : s.OtherEntries t n
  release : r.sent = some .sent → t.ReleaseWaits { service := n, epoch := r.epoch, reason := .withdraw }
  quiet : r.sent ≠ some .sent → s.tx.state ≠ .ready → t.tx = { s.tx with queue := s.tx.queue.addStatus }

/-- A step is safe while it answers a next state: the model has no fault, and no command is refused. -/
def State.stepsOn (s : State) : Prop := ∃ t, step s = .next t

end Sys2Proof.Machine
end

