-- ==== Sys2Proof/Certificates/Slice0/Obligations.lean ====
section
/-! DEFINITION. The statements for the provers, one `def Obligations.<Name> : Prop` each: the machine and its invariants,
the orders and formats, time and the pins, the bus and the Transmitter, the Peer Monitor, the Ownership Controller, and the
host. -/

section
open Sys2Proof Sys2Proof.Machine

/-! ## The machine -/

/-- A step takes the command at the front of the queue and runs it with the queue's rest; on an empty queue nothing
happens (the model's choice, log entry 3). -/
def Obligations.StepRunsFrontCommand : Prop :=
  (∀ (c : Instr) (rest : List Instr) (s : State),
    step (s.withPending (c :: rest)) = exec c (s.withPending rest)) ∧
  ∀ s : State, s.pending = [] → step s = .next s

/-- The state after reset meets the invariant of the part (R19, R86, R101, R117, R145, R156; log entry 5 names the own ID
and the pin levels). -/
def Obligations.ResetIsConsistent : Prop := State.reset.Consistent

/-- Every step keeps DRVn on exactly while entry n is HELD (R42), IRQ asserted exactly while it is enabled and the Event
Queue is not empty (R155), the Event Queue within 32 records, the lost count zero while it has room (R153), and the blocks
at their hard-reset values while RST is low (R117, R156); the pins carry the levels of R147, R158 and R159, and the
receiver reads BP and BN by the threshold of Table 11-12. That the part does nothing while RST is low, and keeps the ID
it sampled last, is the model's choice (log entry 25), and so is that HSDO is not driven in IDLE where HSEL is still low
after RST returned high (log entry 29). -/
def Obligations.StepKeepsOutputs : Prop :=
  (∀ s t : State,
    s.DriveFollowsHeld →
    s.host.Sound →
    s.ResetHeld →
    step s = .next t →
    t.DriveFollowsHeld ∧ t.host.Sound ∧ t.ResetHeld ∧
    (∀ n, t.drvPin n = if t.rstLow = false ∧ (t.entry n).state = .held then .high else .low) ∧
    t.irqPin = (if t.rstLow = false ∧ t.host.irqEnable = true ∧ t.host.events ≠ [] then .low else .floating) ∧
    (t.rstLow = true ∨ t.host.txn = .idle → ∀ k, t.hsdoPin k = .floating) ∧
    (t.rstLow = false → t.host.txn ≠ .idle → ∀ k, t.hsdoPin k ≠ .floating) ∧
    (∀ cur b, t.rstLow = false → t.host.txn = .data .read cur → t.host.fetched = some b →
      ∀ k : Fin 8, t.hsdoPin k = if b.getLsbD (7 - k.val) = true then .high else .low) ∧
    (t.rstLow = true ∨ t.tx.state ≠ .driving → ∀ k, t.busDrive k = .undriven) ∧
    ∀ f, t.rstLow = false → t.tx.state = .driving → t.tx.flight = some f → ∀ k,
      t.busDrive k =
        match f.driven[k]? with
        | some (.pulse .positive) => .bpAboveBn
        | some (.pulse .negative) => .bnAboveBp
        | some .empty => .neither
        | none => .undriven) ∧
  (∀ mV : Int,
    (400 < mV → symbolOfDifference mV = .pulse .positive) ∧ (mV < -400 → symbolOfDifference mV = .pulse .negative) ∧
    (-400 ≤ mV → mV ≤ 400 → symbolOfDifference mV = .empty)) ∧
  ∀ k : Nat, ticksIn (16000 * k) = k ∧ bitTimesIn (8 * k) = k

/-- Every step keeps the Transmitter consistent (R131, R135, R136, R141 to R144). -/
def Obligations.StepKeepsTransmitter : Prop :=
  ∀ s t : State, s.TxConsistent → step s = .next t → t.TxConsistent

/-- Every step keeps the Service Table in agreement with the station, its peers and its plan (R3, R5, R6, R7, R27), and
the other blocks with each other (R79, R86, R98, R102, R108, R109, R129), from states whose Transmitter is consistent: a
CONFIG station drives no attempt. -/
def Obligations.StepKeepsTables : Prop :=
  ∀ s t : State,
    (∀ n, s.EntryAgrees n) →
    s.BlocksAgree →
    s.TxConsistent →
    step s = .next t →
    (∀ n, t.EntryAgrees n) ∧ t.BlocksAgree

/-- Every step keeps every timer, the empty count, the assembled content, the deaf count and the back-off in range. -/
def Obligations.StepKeepsRanges : Prop :=
  ∀ s t : State, s.InRange → step s = .next t → t.InRange

/-! ## Orders and formats -/

/-- R9: how two epochs compare. -/
def Obligations.EpochComparison : Prop :=
  (∀ a b : Epoch,
    (compareEpochs (some a) (some b) = .newer ↔
      1 ≤ (a.toNat + 256 - b.toNat) % 256 ∧ (a.toNat + 256 - b.toNat) % 256 ≤ 127) ∧
    (compareEpochs (some a) (some b) = .equal ↔ a = b) ∧
    (compareEpochs (some a) (some b) = .older ↔ 128 ≤ (a.toNat + 256 - b.toNat) % 256)) ∧
  (∀ a : Epoch, compareEpochs (some a) none = .newer ∧ compareEpochs none (some a) = .older) ∧
  compareEpochs none none = .equal

/-- R12 and R13: who is a candidate, this station while ACTIVE with its own grade, class and rank, a LIVE peer with what
it published, no one with grade UNAV or for an undefined service; the four keys in turn, which decide between any two
distinct stations; the best candidate is the candidate better than every other; a claim is compared by the tuple it
carries; UNAV counts below FAIL. -/
def Obligations.CandidateOrder : Prop :=
  (∀ a b : ClaimTuple,
    (a.better b = true ↔
      (a.cls = .force ∧ b.cls = .normal) ∨
      (a.cls = b.cls ∧ a.grade.better b.grade = true) ∨
      (a.cls = b.cls ∧ a.grade = b.grade ∧ a.rank < b.rank) ∨
      (a.cls = b.cls ∧ a.grade = b.grade ∧ a.rank = b.rank ∧ a.id < b.id)) ∧
    (a.id ≠ b.id → a.better b = !b.better a)) ∧
  (∀ g h : Grade, g.better h = true ↔
    (g = .ok ∧ h ≠ .ok) ∨ (g = .deg ∧ (h = .fail ∨ h = .unav)) ∨ (g = .fail ∧ h = .unav)) ∧
  (∀ (s : State) (n : Service),
    (s.ownCandidate n = true ↔
      s.station.phase = .active ∧ (s.condition n).grade ≠ .unav ∧ (s.planOf n).defined = true) ∧
    (∀ (p : StationId) (t : ClaimTuple), s.peerCandidate n p = some t ↔
      (s.peer p).state = .live ∧ (s.planOf n).defined = true ∧
        ∃ b, (s.peer p).data = some b ∧ (look b.services n).grade ≠ .unav ∧
          t =
            { cls := (look b.services n).cls, grade := (look b.services n).grade, rank := (look b.services n).rank
              id := p }) ∧
    (s.ownBest n = true ↔
      s.ownCandidate n = true ∧ ∀ p t, s.peerCandidate n p = some t → (s.ownTuple n).better t = true) ∧
    s.ownTuple n =
      { cls := (s.condition n).cls, grade := (s.condition n).grade, rank := (s.planOf n).rank, id := s.station.ownId }) ∧
  ∀ r : ClaimRecord, r.tuple =
    { cls := r.claimed.cls, grade := r.claimed.grade, rank := r.claimed.rank, id := r.claimant }

/-- The decoder reads back every content that the line code sends, from an idle line (R119 to R123). -/
def Obligations.DecoderInvertsLineCode : Prop :=
  ∀ (r : Receiver) (content : List Bool),
    r.decoder = .lineIdle →
    content.length ≤ 696 →
    r.run (codeFrame content) =
      some
        ({ r with
            decoder := .seekIdle, emptyCount := 0, lastPolarity := lastPulse r.lastPolarity (codeFrame content),
            assembled := [], overrun := false, lastMark := none },
          .frameEnd content false)

/-- Every frame that the bus carries is judged good and read back field by field from its own bytes (R124, R125, R157);
its length is that of Table 11-4, at most 87 bytes. -/
def Obligations.FrameBytesParseBack : Prop :=
  ∀ f : Frame,
    ((frameBytes f).length =
      match f.body with
      | .status b => 25 + 2 * b.held.length
      | .claim c => if c.mode = .vacant then 10 else 11
      | .release es => 7 + 3 * es.length
      | .object es => 7 + 5 * es.length) ∧
    (f.body.WellFormed →
      judgeFrame (bitsOfBytes (frameBytes f)) false = .good f ∧
        10 ≤ (frameBytes f).length ∧ (frameBytes f).length ≤ 87)

/-- A frame of a peer that comes whole on an idle line, while no attempt is driven, is counted as a good frame and taken
by the Peer Monitor (R119 to R126). A back-off counts the frame's bit times off and stands at 0 (the model's choice, log
entry 19). -/
def Obligations.PeerFrameIsTaken : Prop :=
  ∀ (f : Frame) (s : State),
    s.rx.receiving = true →
    s.tx.state ≠ .driving →
    s.rx.decoder = .lineIdle →
    f.body.WellFormed →
    f.sender ≠ s.station.ownId →
    let line := codeFrame (bitsOfBytes (frameBytes f))
    ∃ s' : State,
      exec (.frameReceived line) s = .next (takeFrame f s') ∧
      s'.rx.goodFrames = satInc s.rx.goodFrames ∧ s'.rx.decoder = .seekIdle ∧
      s' = (s.withRx s'.rx).withTx
        { s.tx with
          backOff := if s.tx.state = .backingOff then s.tx.backOff.map (· - line.length) else s.tx.backOff }

/-- A frame that ends while no attempt is driven is counted in exactly one counter; one with an error reaches no other
block, and so does a good one with the own ID while a frame is in flight (R124, R126, R139). A back-off counts the bit
times (the model's choice, log entry 19). -/
def Obligations.EndedFrameIsCounted : Prop :=
  ∀ (line : List Symbol) (s : State) (r : Receiver) (c : List Bool) (past : Bool),
    s.rx.receiving = true →
    s.tx.state ≠ .driving →
    s.rx.run line = some (r, .frameEnd c past) →
    (judgeFrame c past = .formatError →
      exec (.frameReceived line) s =
        .next ((passBits line.length s).withRx { r with formatErrors := satInc r.formatErrors })) ∧
    (judgeFrame c past = .crcError →
      exec (.frameReceived line) s =
        .next ((passBits line.length s).withRx { r with crcErrors := satInc r.crcErrors })) ∧
    (∀ f, judgeFrame c past = .good f → f.sender = s.station.ownId → s.tx.flight ≠ none →
      exec (.frameReceived line) s =
        .next ((passBits line.length s).withRx { r with goodFrames := satInc r.goodFrames })) ∧
    (c.length % 8 ≠ 0 ∨ c.length < 48 ∨ past = true → judgeFrame c past = .formatError)

/-! ## Time and the pins -/

/-- A Timebase tick raises the count and counts down every timer; a WTR timer falls at every 1000th tick (R1, R3, R4, R76,
R78, R91, R108, R109). A timer at 0 waits there for its own command (the model's choice, log entry 2), and while RST is
low no tick counts (the model's choice, log entry 25). -/
def Obligations.TickCountsEveryTimer : Prop :=
  (∀ s : State, s.rstLow = true → exec .timebaseTick s = .next s) ∧
  ∀ s : State, s.rstLow = false → ∃ t, exec .timebaseTick s = .next t ∧
    t.timebase.toNat = (s.timebase.toNat + 1) % 65536 ∧
    t.oc.drv = s.oc.drv ∧
    (∀ n,
      t.entry n =
        { s.entry n with
          record := (s.entry n).record.map fun r => { r with window := r.window.map (· - 1) }
          retryHold := (s.entry n).retryHold.map (· - 1)
          wtr := (t.entry n).wtr } ∧
      ((s.entry n).wtr = none → (t.entry n).wtr = none) ∧
      ∀ w ∈ (s.entry n).wtr,
        (w.seconds = 0 → (t.entry n).wtr = some w) ∧
        (w.seconds ≠ 0 → w.ticks < 999 → (t.entry n).wtr = some { w with ticks := w.ticks + 1 }) ∧
        (w.seconds ≠ 0 → 999 ≤ w.ticks →
          (t.entry n).wtr = some { seconds := w.seconds - 1, ticks := 0, due := decide (w.seconds = 1) })) ∧
    (∀ n, t.condition n =
      if s.station.phase = .config then s.condition n
      else { s.condition n with timer := (s.condition n).timer.map (· - 1) }) ∧
    (∀ p, t.peer p =
      if s.station.phase = .config then s.peer p else { s.peer p with silence := (s.peer p).silence.map (· - 1) }) ∧
    t.peers.isolated = s.peers.isolated ∧ t.peers.clashCount = s.peers.clashCount ∧
    t.station =
      { s.station with
        listenTimer := s.station.listenTimer.map (· - 1), statusTimer := s.station.statusTimer.map (· - 1) } ∧
    t.rx = s.rx ∧ t.tx = s.tx ∧ t.host = s.host ∧ t.pending = s.pending ∧ t.rstLow = s.rstLow ∧ t.freeCount = s.freeCount

/-- The raw condition follows SFn and SDn, and its change acts on the condition timer (R75, R76, R78). -/
def Obligations.RawConditionChange : Prop :=
  ∀ (n : Service) (sf sd : Bool) (s : State), ∃ t, exec (.rawConditionChange n sf sd) s = .next t ∧
    (t.condition n).sf = sf ∧ (t.condition n).sd = sd ∧
    (t.condition n).raw = (if sf = true then .fail else if sd = true then .deg else .ok) ∧
    (∀ m, m ≠ n → t.condition m = s.condition m) ∧
    t.timebase = s.timebase ∧ t.peers = s.peers ∧ t.station = s.station ∧ t.rx = s.rx ∧ t.pending = s.pending ∧
    t.rstLow = s.rstLow ∧
    (rawOf sf sd = (s.condition n).raw ∨ s.station.phase = .config →
      t = putCondition n { s.condition n with sf := sf, sd := sd, raw := rawOf sf sd } s) ∧
    (rawOf sf sd ≠ (s.condition n).raw → s.station.phase ≠ .config →
      (rawOf sf sd = (s.condition n).debounced →
        t = putCondition n { s.condition n with sf := sf, sd := sd, raw := rawOf sf sd, timer := none } s) ∧
      ((rawOf sf sd).worse (s.condition n).debounced = true → (s.planOf n).holdOff ≠ 0 →
        t = putCondition n
          { s.condition n with
            sf := sf, sd := sd, raw := rawOf sf sd, timer := some (10 * (s.planOf n).holdOff.toNat) } s) ∧
      ((rawOf sf sd).worse (s.condition n).debounced = true → (s.planOf n).holdOff = 0 →
        t.condition n =
          { s.condition n with
            sf := sf, sd := sd, raw := rawOf sf sd, timer := none, debounced := rawOf sf sd
            grade := formGrade (s.planOf n) (rawOf sf sd) (s.condition n).request
            cls := formClass (s.condition n).request }) ∧
      ((s.condition n).debounced.worse (rawOf sf sd) = true →
        t = putCondition n
          { s.condition n with
            sf := sf, sd := sd, raw := rawOf sf sd, timer := some (max (10 * (s.planOf n).holdOff.toNat) 10) } s))

/-- A condition timer that runs out brings the raw condition into the debounced condition and the published grade (R77,
R79); nothing else changes when grade and class stay. A change is posted first and asks for an early STATUS (R80); a grade
that becomes FAIL withdraws or abandons a NORMAL own claim, and other changes leave an own claim as it is (R35, R36). -/
def Obligations.ConditionTimerRunsOut : Prop :=
  ∀ (n : Service) (s : State),
    (s.condition n).timer = some 0 →
    ∃ t, exec (.conditionTimerRunsOut n) s = .next t ∧
      t.condition n =
        { s.condition n with
          timer := none, debounced := (s.condition n).raw
          grade := formGrade (s.planOf n) (s.condition n).raw (s.condition n).request
          cls := formClass (s.condition n).request } ∧
      (∀ m, m ≠ n → t.condition m = s.condition m) ∧
      t.timebase = s.timebase ∧ t.peers = s.peers ∧ t.station = s.station ∧ t.rx = s.rx ∧ t.pending = s.pending ∧
      t.rstLow = s.rstLow ∧
      ((t.condition n).grade = (s.condition n).grade → (t.condition n).cls = (s.condition n).cls →
        (s.tx.state = .ready → s.tx.queue = emptyQueue) → t = putCondition n (t.condition n) s) ∧
      ((t.condition n).grade ≠ (s.condition n).grade → s.CanRecord 1 →
        s.host.events ++ [s.event .gradeChanged (some n) none none (some (.grade (t.condition n).grade))] <+:
          t.host.events) ∧
      ((t.condition n).grade ≠ (s.condition n).grade ∨ (t.condition n).cls ≠ (s.condition n).cls →
        s.station.phase = .listen ∨ s.station.phase = .active → t.StatusWaits) ∧
      ∀ r, s.EntryAgrees n → (s.entry n).state = .claiming → (s.entry n).record = some r →
        ((t.condition n).grade = .fail → (s.condition n).grade ≠ .fail → r.claimed.cls = .normal →
          s.Withdrawn t n r ∧
          (s.CanRecord 2 →
            t.host.events = s.host.events ++
              [s.event .gradeChanged (some n) none none (some (.grade .fail)),
                s.event .claimFailed (some n) none (some r.epoch) (some (.claimFailed .withdrawn))])) ∧
        ((t.condition n).cls = (s.condition n).cls →
          (t.condition n).grade ≠ .fail ∨ (s.condition n).grade = .fail ∨ r.claimed.cls = .force →
          t.entry n = s.entry n)

/-- A WTR timer that has run out while the revertive test still holds queues a TAKEOVER claim on the holder at the next
epoch, and the timer goes (R10, R15, R17, R56). -/
def Obligations.WtrTimerClaimsBack : Prop :=
  ∀ (n : Service) (s : State) (w : WtrTimer) (h : StationId) (b : ServiceByte),
    s.station.phase = .active →
    (s.entry n).state = .remote →
    (s.entry n).owner = some h →
    s.published h n = some b →
    (s.entry n).wtr = some w →
    w.due = true ∧ w.seconds = 0 →
    (s.entry n).retryHold = none →
    (s.planOf n).revertive = true →
    (s.condition n).grade = b.grade ∧ b.grade ≠ .fail →
    (s.planOf n).rank < b.rank →
    (s.condition n).cls = .normal ∧ b.cls = .normal →
    s.ownBest n = true →
    ∃ t, exec (.wtrTimerRunsOut n) s = .next t ∧
      t.entry n =
        { s.entry n with
          state := .claiming, wtr := none, changed := s.timebase
          record := some
            { claimant := s.station.ownId, epoch := nextEpoch (s.entry n).epoch, mode := .takeover h
              claimed := { grade := (s.condition n).grade, cls := .normal, rank := (s.planOf n).rank }
              sent := some .queued, window := none, releaseHeard := false, listing := .notHeard } } ∧
      look t.oc.drv n = false ∧ s.OtherEntries t n ∧ t.ClaimWaits n (nextEpoch (s.entry n).epoch) ∧ s.OnlyOwnership t

/-- A retry hold that runs out goes, and an ACTIVE station evaluates the service (R4, R14, R15): it claims a VACANT or
ORPHANED service for which it is the best candidate and fit (R16); takes a REMOTE one over from a holder that it betters,
or starts the WTR timer of a revertive one (R17); and competes with a watched claim that it betters (R18). -/
def Obligations.RetryHoldRunsOut : Prop :=
  ∀ (n : Service) (s : State),
    (s.entry n).retryHold = some 0 →
    ∃ t, exec (.retryHoldRunsOut n) s = .next t ∧ (t.entry n).retryHold = none ∧
      s.OtherEntries t n ∧ s.OnlyOwnership t ∧
      (s.station.phase ≠ .active → t = putEntry n { s.entry n with retryHold := none } s) ∧
      (s.station.phase = .active → (s.entry n).state = .vacant ∨ (s.entry n).state = .orphaned →
        (s.ownBest n = true →
          (s.condition n).cls = .force ∨ (s.peers.isolated = false ∧ (s.condition n).grade ≠ .fail) →
          t.entry n =
            { s.entry n with
              state := .claiming, retryHold := none, wtr := none, changed := s.timebase
              record := some
                { claimant := s.station.ownId, epoch := nextEpoch (s.entry n).epoch, mode := .vacant
                  claimed := s.ownByte n, sent := some .queued, window := none, releaseHeard := false
                  listing := .notHeard } } ∧
          t.ClaimWaits n (nextEpoch (s.entry n).epoch)) ∧
        (s.ownBest n = false ∨
            ((s.condition n).cls ≠ .force ∧ (s.peers.isolated = true ∨ (s.condition n).grade = .fail)) →
          t.entry n = { s.entry n with retryHold := none, wtr := none } ∧ t.tx = s.tx)) ∧
      (s.station.phase = .active → ∀ h b, (s.entry n).state = .remote → (s.entry n).owner = some h →
        s.published h n = some b →
        (s.ownBest n = true →
          ((s.condition n).cls = .force ∧ b.cls = .normal) ∨
            ((s.condition n).grade.better b.grade = true ∧
              ((s.condition n).cls = .force ∨ (s.condition n).grade ≠ .fail)) →
          t.entry n =
            { s.entry n with
              state := .claiming, retryHold := none, wtr := none, changed := s.timebase
              record := some
                { claimant := s.station.ownId, epoch := nextEpoch (s.entry n).epoch, mode := .takeover h
                  claimed := s.ownByte n, sent := some .queued, window := none, releaseHeard := false
                  listing := .notHeard } } ∧
          t.ClaimWaits n (nextEpoch (s.entry n).epoch)) ∧
        (s.ownBest n = true → (s.condition n).grade = b.grade ∧ b.grade ≠ .fail → (s.planOf n).rank < b.rank →
          (s.planOf n).revertive = true → (s.condition n).cls = .normal ∧ b.cls = .normal → (s.entry n).wtr = none →
          t.entry n =
            { s.entry n with
              retryHold := none
              wtr := some { seconds := (s.planOf n).wtr.toNat, ticks := 0, due := false } } ∧ t.tx = s.tx) ∧
        (s.ownBest n = false → t.entry n = { s.entry n with retryHold := none, wtr := none } ∧ t.tx = s.tx)) ∧
      (s.station.phase = .active → ∀ r, (s.entry n).state = .watching → (s.entry n).record = some r →
        (r.epoch = nextEpoch (s.entry n).epoch ∧ s.ownCandidate n = true ∧ (s.ownTuple n).better r.tuple = true ∧
            ((s.condition n).cls = .force ∨ (s.peers.isolated = false ∧ (s.condition n).grade ≠ .fail)) →
          t.entry n =
            { s.entry n with
              state := .claiming, retryHold := none, wtr := none, changed := s.timebase
              record := some
                { claimant := s.station.ownId, epoch := r.epoch, mode := r.mode, claimed := s.ownByte n
                  sent := some .queued, window := none, releaseHeard := false, listing := .notHeard } } ∧
          t.ClaimWaits n r.epoch) ∧
        (r.epoch ≠ nextEpoch (s.entry n).epoch ∨ s.ownCandidate n = false ∨
            (s.ownTuple n).better r.tuple = false ∨
            ((s.condition n).cls ≠ .force ∧ (s.peers.isolated = true ∨ (s.condition n).grade = .fail)) →
          t.entry n = { s.entry n with retryHold := none } ∧ t.tx = s.tx))

/-- The window end of an own claim: accepted, the entry is HELD at the claim epoch with DRVn on, and SVC_HELD is posted;
on a LIVE holder that neither released nor left the service out of its STATUS, the claim fails with TIMEOUT (R28, R29,
R31). -/
def Obligations.OwnWindowEnds : Prop :=
  ∀ (n : Service) (s : State) (r : ClaimRecord),
    s.EntryAgrees n →
    (s.entry n).state = .claiming →
    (s.entry n).record = some r →
    r.window = some 0 →
    ((∀ p, r.mode = .takeover p → s.isLive p = true → r.releaseHeard = true ∨ r.listing = .notListed) →
      ∃ t, exec (.claimWindowEnd n) s = .next t ∧
        t.entry n =
          { s.entry n with
            state := .held, owner := some s.station.ownId, epoch := some r.epoch, record := none, wtr := none
            changed := s.timebase } ∧
        look t.oc.drv n = true ∧ s.OtherEntries t n ∧ t.StatusWaits ∧ s.OnlyOwnership t ∧
        (s.CanRecord 1 →
          t.host.events = s.host.events ++
            [s.event .svcHeld (some n) (match r.mode with | .vacant => none | .takeover p => some p) (some r.epoch)
              (some (match r.mode with | .vacant => .vacantMode | .takeover _ => .takeoverMode))])) ∧
    (∀ p, r.mode = .takeover p → s.isLive p = true → r.releaseHeard = false → r.listing ≠ .notListed →
      ∃ t, exec (.claimWindowEnd n) s = .next t ∧
        s.SettledAs (t.entry n) ∧ (t.entry n).owner = (s.entry n).owner ∧ (t.entry n).epoch = (s.entry n).epoch ∧
        (t.entry n).retryHold = some 100 ∧ (t.entry n).changed = s.timebase ∧ look t.oc.drv n = false ∧
        s.OtherEntries t n ∧ s.OnlyOwnership t ∧ t.tx = s.tx ∧
        (s.CanRecord 1 →
          t.host.events = s.host.events ++
            [s.event .claimFailed (some n) (some p) (some r.epoch) (some (.claimFailed .timeout))]))

/-- The window end of a watched claim: accepted, the claimant is the owner at the claim epoch; failed, the old owner and
epoch stay (R28, R30). In ACTIVE an evaluation follows, which changes neither owner nor epoch. -/
def Obligations.WatchedWindowEnds : Prop :=
  ∀ (n : Service) (s : State) (r : ClaimRecord),
    s.EntryAgrees n →
    (s.entry n).state = .watching →
    (s.entry n).record = some r →
    r.window = some 0 →
    ((∀ p, r.mode = .takeover p → s.isLive p = true → r.releaseHeard = true ∨ r.listing = .notListed) →
      ∃ t, exec (.claimWindowEnd n) s = .next t ∧
        (t.entry n).owner = some r.claimant ∧ (t.entry n).epoch = some r.epoch ∧
        (s.station.phase ≠ .active →
          t.entry n =
            { s.entry n with
              state := .remote, owner := some r.claimant, epoch := some r.epoch, record := none
              changed := s.timebase } ∧ t.tx = s.tx) ∧
        s.OtherEntries t n ∧ s.OnlyOwnership t ∧
        (s.CanRecord 1 → (s.entry n).owner ≠ some r.claimant ∨ (s.entry n).epoch ≠ some r.epoch →
          t.host.events =
            s.host.events ++ [s.event .ownerChanged (some n) (some r.claimant) (some r.epoch) none])) ∧
    (∀ p, r.mode = .takeover p → s.isLive p = true → r.releaseHeard = false → r.listing ≠ .notListed →
      ∃ t, exec (.claimWindowEnd n) s = .next t ∧
        (t.entry n).owner = (s.entry n).owner ∧ (t.entry n).epoch = (s.entry n).epoch ∧
        (s.station.phase ≠ .active →
          s.SettledAs (t.entry n) ∧ (t.entry n).retryHold = (s.entry n).retryHold ∧
          (t.entry n).wtr = (s.entry n).wtr ∧ (t.entry n).changed = s.timebase ∧ t.tx = s.tx) ∧
        s.OtherEntries t n ∧ s.OnlyOwnership t ∧ t.host = s.host)

/-- A silence timer that runs out makes a LIVE or ARRIVING peer SILENT and an INCOMPATIBLE one ABSENT; PEER_SILENT is
posted for a LIVE peer alone; outside ACTIVE its REMOTE entries become ORPHANED and its watched claims go (R27, R69, R96). -/
def Obligations.SilenceTimerRunsOut : Prop :=
  ∀ (p : StationId) (s : State),
    (s.peer p).silence = some 0 →
    (s.peer p).state = .live ∨ (s.peer p).state = .arriving ∨ (s.peer p).state = .incompatible →
    ∃ t, exec (.silenceTimerRunsOut p) s = .next t ∧
      t.peer p =
        { s.peer p with
          state := if (s.peer p).state = .incompatible then .absent else .silent, inOrder := 0, silence := none } ∧
      (∀ q, q ≠ p → t.peer q = s.peer q) ∧ t.peers.clashCount = s.peers.clashCount ∧
      t.timebase = s.timebase ∧ t.cond = s.cond ∧ t.station = s.station ∧ t.rx = s.rx ∧ t.pending = s.pending ∧
      t.rstLow = s.rstLow ∧
      ((s.peer p).state = .live → s.CanRecord 1 →
        s.host.events ++ [s.event .peerSilent none (some p) none none] <+: t.host.events) ∧
      (s.station.phase ≠ .active → ∀ n,
        ((s.entry n).record = none → (s.entry n).owner = some p → (s.entry n).state = .remote →
          t.entry n = { s.entry n with state := .orphaned, changed := s.timebase }) ∧
        (∀ r, (s.entry n).record = some r → r.claimant = p →
          (t.entry n).record = none ∧ (t.entry n).owner = (s.entry n).owner ∧
            (t.entry n).epoch = (s.entry n).epoch) ∧
        ((s.entry n).record = none → (s.entry n).owner ≠ some p → t.entry n = s.entry n))

/-- The listen timer runs out: the station is ACTIVE, the isolated flag is formed, and PHASE_CHANGED(ACTIVE) is posted
last, after ISOLATED when the flag is set (R98, R109). -/
def Obligations.ListenTimerRunsOut : Prop :=
  ∀ s : State,
    s.station.listenTimer = some 0 →
    s.station.phase = .listen →
    ∃ t, exec .listenTimerRunsOut s = .next t ∧
      t.station = { s.station with phase := .active, listenTimer := none } ∧
      t.peers =
        { s.peers with
          isolated := decide (1 ≤ s.station.plan.expectedPeers.val ∧ ∀ p, (s.peer p).state ≠ .live) } ∧
      t.timebase = s.timebase ∧ t.cond = s.cond ∧ t.rx = s.rx ∧ t.pending = s.pending ∧ t.rstLow = s.rstLow ∧
      (∀ n, (t.entry n).owner = (s.entry n).owner ∧ (t.entry n).epoch = (s.entry n).epoch) ∧
      (s.peers.isolated = false → s.CanRecord 2 →
        t.host.events =
          s.host.events ++ (if t.peers.isolated = true then [s.event .isolated none none none none] else []) ++
            [s.event .phaseChanged none none none (some (.phase .active))])

/-- The status period timer runs out: it restarts at 4 ms, and a STATUS is asked for, which a READY Transmitter takes at
once and which joins the queue otherwise (R108, R132, R135). -/
def Obligations.StatusPeriodRunsOut : Prop :=
  ∀ s : State,
    s.station.statusTimer = some 0 →
    s.station.phase = .listen ∨ s.station.phase = .active →
    ∃ t, exec .statusPeriodTimerRunsOut s = .next t ∧
      t = (s.withStation { s.station with statusTimer := some 4 }).withTx t.tx ∧ t.StatusWaits ∧
      (s.tx.state ≠ .ready → t.tx = { s.tx with queue := { s.tx.queue with status := true } }) ∧
      (s.tx.state = .ready → s.tx.queue = emptyQueue →
        t.tx =
          { s.tx with
            state := .waiting, flight := some { frame := .status, content := none, seq := none, attempts := 0 } })

/-! ## The bus and the Transmitter -/

/-- An attempt on an idle line: the first one is given the next sequence number and a content built now, a retry keeps
both; the attempt count rises by 1 (R136). -/
def Obligations.AttemptStarts : Prop :=
  ∀ (s : State) (f : Flight) (body : FrameBody),
    s.tx.state = .waiting →
    s.station.phase.sends = true →
    s.rx.receiving = true →
    s.rx.decoder = .lineIdle →
    s.tx.flight = some f →
    s.buildBody f.frame = some body →
    (f.attempts = 0 →
      exec .attemptStart s =
        .next
          (s.withTx
            { s.tx with
              state := .driving, nextSeq := s.tx.nextSeq + 1
              flight := some
                { frame := f.frame, attempts := 1, seq := some s.tx.nextSeq
                  content := some
                    (frameBytes
                      { sender := s.station.ownId, seq := s.tx.nextSeq, checksum := s.station.checksum
                        body := body }) } })) ∧
    (f.attempts ≠ 0 →
      exec .attemptStart s =
        .next (s.withTx { s.tx with state := .driving, flight := some { f with attempts := f.attempts + 1 } }))

/-- What a frame is built from (R136): a STATUS from the phase, the isolated flag, the grades, classes and ranks, and the
HELD entries in ascending order; a CLAIM from the own record with its epoch; a list from its entries. -/
def Obligations.FrameContents : Prop :=
  ∀ s : State,
    (∃ b, s.buildBody .status = some (.status b) ∧
      (s.station.phase = .listen → b.phase = .listen) ∧ (s.station.phase = .active → b.phase = .active) ∧
      (s.station.phase = .leaving → b.phase = .leaving) ∧
      b.isolated = s.peers.isolated ∧
      (∀ n, look b.services n =
        { grade := (s.condition n).grade, cls := (s.condition n).cls, rank := (s.planOf n).rank }) ∧
      (b.held.map Prod.fst).Pairwise (· < ·) ∧
      ∀ n e, (n, e) ∈ b.held ↔ (s.entry n).state = .held ∧ e = (s.entry n).heldEpoch) ∧
    (∀ n e r, (s.entry n).state = .claiming → (s.entry n).record = some r → r.claimant = s.station.ownId →
      r.epoch = e →
      s.buildBody (.claim n e) = some (.claim { service := n, epoch := e, mode := r.mode, claimed := r.claimed })) ∧
    (∀ es, s.buildBody (.release es) = some (.release es)) ∧
    ∀ es, s.buildBody (.object es) = some (.object es)

/-- A CLAIM whose own record is gone or has another epoch is dropped when its attempt would begin: nothing is driven, no
counter and no sequence number changes, and the next head is taken (R135, R136). -/
def Obligations.StaleClaimIsDropped : Prop :=
  ∀ (s : State) (f : Flight) (n : Service) (e : Epoch),
    s.tx.state = .waiting →
    s.station.phase.sends = true →
    s.rx.receiving = true →
    s.rx.decoder = .lineIdle →
    s.tx.flight = some f →
    f.frame = .claim n e →
    (∀ r, (s.entry n).state = .claiming → (s.entry n).record = some r → r.claimant = s.station.ownId → r.epoch ≠ e) →
    ∃ t, exec .attemptStart s = .next t ∧
      t.tx = { s.tx with state := t.tx.state, queue := t.tx.queue, flight := t.tx.flight, backOff := none } ∧
      t.timebase = s.timebase ∧ t.oc = s.oc ∧ t.cond = s.cond ∧ t.peers = s.peers ∧ t.rx = s.rx ∧
      t.pending = s.pending ∧ t.rstLow = s.rstLow ∧
      (∀ g q, s.tx.queue.takeHead = some (g, q) →
        t.tx.state = .waiting ∧ t.tx.queue = q ∧
          t.tx.flight = some { frame := g, content := none, seq := none, attempts := 0 } ∧
          t.station = s.station ∧ t.host = s.host) ∧
      (s.tx.queue = emptyQueue →
        t.tx.state = .ready ∧ t.tx.queue = emptyQueue ∧ t.tx.flight = none ∧
          (s.station.phase ≠ .leaving → t.station = s.station ∧ t.host = s.host) ∧
          (s.station.phase = .leaving → t.station = { s.station with phase := .detached }))

/-- An attempt of a STATUS, RELEASE or OBJECT that ends CLEAN: counted as sent and as a good frame received, the deaf
count 0, the frame finished and the next head taken; the last leave frame brings DETACHED, and in MUTED the frame is
dropped (R112, R124, R135, R140, R144). -/
def Obligations.CleanAttemptEnds : Prop :=
  ∀ (s : State) (f : Flight),
    s.tx.state = .driving →
    s.tx.flight = some f →
    (∀ n e, f.frame ≠ .claim n e) →
    s.station.phase.sends = true ∨ s.station.phase = .muted →
    ∃ t, exec .attemptClean s = .next t ∧
      t.tx =
        { s.tx with
          state := t.tx.state, queue := t.tx.queue, flight := t.tx.flight, backOff := none
          framesSent := satInc s.tx.framesSent, deafCount := 0 } ∧
      t.rx =
        { s.rx with
          decoder := .seekIdle, emptyCount := 0, lastPolarity := lastPulse s.rx.lastPolarity f.driven
          assembled := [], overrun := false, lastMark := none, goodFrames := satInc s.rx.goodFrames } ∧
      t.timebase = s.timebase ∧ t.oc = s.oc ∧ t.cond = s.cond ∧ t.peers = s.peers ∧ t.pending = s.pending ∧
      t.rstLow = s.rstLow ∧
      (s.station.phase = .muted →
        t.tx.state = .ready ∧ t.tx.flight = none ∧ t.tx.queue = s.tx.queue ∧ t.station = s.station ∧
          t.host = s.host) ∧
      (s.station.phase ≠ .muted →
        (∀ g q, s.tx.queue.takeHead = some (g, q) →
          t.tx.state = .waiting ∧ t.tx.queue = q ∧
            t.tx.flight = some { frame := g, content := none, seq := none, attempts := 0 } ∧
            t.station = s.station ∧ t.host = s.host) ∧
        (s.tx.queue = emptyQueue →
          t.tx.state = .ready ∧ t.tx.queue = emptyQueue ∧ t.tx.flight = none ∧
            (s.station.phase ≠ .leaving → t.station = s.station ∧ t.host = s.host) ∧
            (s.station.phase = .leaving →
              t.station = { s.station with phase := .detached } ∧
              (s.CanRecord 1 →
                t.host.events =
                  s.host.events ++ [s.event .phaseChanged none none none (some (.phase .detached))]))))

/-- A CLAIM that ends CLEAN: its record is SENT with a window of 8 ms, or the claim is accepted at once when its release
was heard; a CLAIM whose record is gone is withdrawn, and one that a later claim or holding supersedes is not (R21, R22). -/
def Obligations.CleanClaimEnds : Prop :=
  ∀ (s : State) (f : Flight) (n : Service) (e : Epoch),
    s.tx.state = .driving →
    s.tx.flight = some f →
    f.frame = .claim n e →
    s.station.phase.sends = true →
    s.EntryAgrees n →
    ∃ t, exec .attemptClean s = .next t ∧
      t.tx.framesSent = satInc s.tx.framesSent ∧ t.tx.deafCount = 0 ∧ t.tx.nextSeq = s.tx.nextSeq ∧
      t.rx.goodFrames = satInc s.rx.goodFrames ∧ s.OtherEntries t n ∧
      t.timebase = s.timebase ∧ t.cond = s.cond ∧ t.peers = s.peers ∧ t.pending = s.pending ∧ t.rstLow = s.rstLow ∧
      (∀ r, (s.entry n).state = .claiming → (s.entry n).record = some r → r.epoch = e →
        (r.releaseHeard = false →
          t.entry n = { s.entry n with record := some { r with sent := some .sent, window := some 8 } }) ∧
        (r.releaseHeard = true →
          (t.entry n).state = .held ∧ (t.entry n).owner = some s.station.ownId ∧ (t.entry n).epoch = some e ∧
            (t.entry n).record = none ∧ look t.oc.drv n = true)) ∧
      ((s.entry n).state ≠ .claiming → (s.entry n).state ≠ .held →
        s.station.phase = .active ∨ s.station.phase = .leaving →
        t.oc = s.oc ∧ t.ReleaseWaits { service := n, epoch := e, reason := .withdraw }) ∧
      ((s.entry n).state = .held ∨ (∀ r ∈ (s.entry n).record, (s.entry n).state = .claiming ∧ r.epoch ≠ e) ∧
          (s.entry n).state = .claiming →
        t.oc = s.oc ∧ (s.tx.queue = emptyQueue → t.tx.queue = emptyQueue ∧ t.tx.flight = none))

/-- An attempt found COLLIDED before its eighth: counted, the deaf count 0, and a back-off of (1 + own ID) slots of 32 bit
times (R141). -/
def Obligations.CollidedAttemptBacksOff : Prop :=
  ∀ (s : State) (f : Flight) (line : List Symbol) (r : Receiver) (ev : LineEvent),
    s.tx.state = .driving →
    s.tx.flight = some f →
    f.attempts < 8 →
    s.station.phase ≠ .muted →
    s.judge f line = some (.collided, r, ev, []) →
    (∀ c past, ev ≠ .frameEnd c past) →
    exec (.attemptCollided line) s =
      .next
        ((s.withRx r).withTx
          { s.tx with
            state := .backingOff, backOff := some ((1 + s.station.ownId.val) * 32)
            collisions := satInc s.tx.collisions, deafCount := 0 })

/-- The readback of an attempt on an idle line (R127, R137): the attempt's own frame, read back whole, is CLEAN, and so is
the FRAME_RECEIVED that brings it. COLLIDED is found at a pulse where none was driven and at none where one was, after the
first bit time; at the first pulse that comes after a missed first one; and at the second pulse of a start delimiter in
which one of the two has the wrong polarity. Eight empty bit times are DEAF. A wrong polarity later in the frame is found
by the decoder's reports, of which this statement does not speak. That a FRAME_RECEIVED while DRIVING is the attempt's
readback is the model's reading (log entry 20). -/
def Obligations.ReadbackJudgesAttempt : Prop :=
  ∀ (s : State) (f : Flight) (g : Frame),
    s.tx.state = .driving →
    s.tx.flight = some f →
    s.rx.receiving = true →
    s.rx.decoder = .lineIdle →
    g.body.WellFormed →
    f.content = some (frameBytes g) →
    (∃ r ev, s.judge f f.driven = some (.clean, r, ev, [])) ∧
    exec (.frameReceived f.driven) s = exec .attemptClean s ∧
    (∀ (k : Nat) (b : Symbol), 0 < k → k < f.driven.length → isPulse b ≠ isPulse (f.driven.getD k .empty) →
      ∃ r ev, s.judge f (f.driven.take k ++ [b]) = some (.collided, r, ev, [])) ∧
    (∀ (k : Nat) (p : Polarity), 1 ≤ k → k ≤ 7 →
      ∃ r ev, s.judge f (List.replicate k .empty ++ [.pulse p]) = some (.collided, r, ev, [])) ∧
    (∀ p : Polarity, ∃ r, s.judge f [.pulse p, .pulse (opposite p)] = some (.collided, r, .codeError, [])) ∧
    ∃ r ev, s.judge f (List.replicate 8 .empty) = some (.deaf, r, ev, [])

/-- The eighth attempt, COLLIDED, gives the frame up: counted in collisions and give-ups, TX_GIVEUP posted first, an own
claim failed with its retry hold, and the next head taken (R31, R38, R142). -/
def Obligations.EighthAttemptGivesUp : Prop :=
  ∀ (s : State) (f : Flight) (line : List Symbol) (r : Receiver) (ev : LineEvent),
    s.tx.state = .driving →
    s.tx.flight = some f →
    f.attempts = 8 →
    s.station.phase.sends = true →
    s.judge f line = some (.collided, r, ev, []) →
    (∀ c past, ev ≠ .frameEnd c past) →
    ∃ t, exec (.attemptCollided line) s = .next t ∧
      t.tx.collisions = satInc s.tx.collisions ∧ t.tx.giveUps = satInc s.tx.giveUps ∧ t.tx.deafCount = 0 ∧
      t.tx.nextSeq = s.tx.nextSeq ∧ t.tx.backOff = none ∧
      t.rx = r ∧ t.timebase = s.timebase ∧ t.cond = s.cond ∧ t.peers = s.peers ∧ t.pending = s.pending ∧
      t.rstLow = s.rstLow ∧
      (∀ g q, s.tx.queue.takeHead = some (g, q) →
        t.tx.state = .waiting ∧ t.tx.queue = q ∧
          t.tx.flight = some { frame := g, content := none, seq := none, attempts := 0 }) ∧
      (s.tx.queue = emptyQueue → t.tx.state = .ready ∧ t.tx.flight = none ∧ t.tx.queue = emptyQueue) ∧
      ((∀ n e, f.frame ≠ .claim n e) →
        t.oc = s.oc ∧
        (s.CanRecord 1 →
          s.host.events ++ [s.event .txGiveUp none none none (some (.frame f.frame.kind))] <+: t.host.events)) ∧
      (∀ n e, f.frame = .claim n e →
        s.OtherEntries t n ∧
        (s.CanRecord 1 →
          s.host.events ++ [s.event .txGiveUp (some n) none (some e) (some (.frame .claim))] <+: t.host.events) ∧
        ∀ x, (s.entry n).state = .claiming → (s.entry n).record = some x → x.claimant = s.station.ownId →
          x.epoch = e →
          s.SettledAs (t.entry n) ∧ (t.entry n).owner = (s.entry n).owner ∧ (t.entry n).epoch = (s.entry n).epoch ∧
            (t.entry n).retryHold = some 100)

/-- A DEAF attempt is counted and backs off one slot; an eighth one below the deaf limit gives the frame up, with
TX_GIVEUP posted first, an own claim failed and the next head taken (R38, R142); the third in a row mutes the station,
whose drives are then off, whose claims are gone and whose Transmitter holds nothing (R114, R141, R143, R144). -/
def Obligations.DeafAttempts : Prop :=
  ∀ (s : State) (f : Flight),
    s.tx.state = .driving →
    s.tx.flight = some f →
    (s.tx.deafCount < 2 → f.attempts < 8 → s.station.phase ≠ .muted →
      exec .attemptDeaf s =
        .next
          (s.withTx
            { s.tx with
              state := .backingOff, backOff := some 32, deafAttempts := satInc s.tx.deafAttempts
              deafCount := s.tx.deafCount + 1 })) ∧
    (s.tx.deafCount < 2 → f.attempts = 8 → s.station.phase.sends = true →
      ∃ t, exec .attemptDeaf s = .next t ∧
        t.tx.deafAttempts = satInc s.tx.deafAttempts ∧ t.tx.deafCount = s.tx.deafCount + 1 ∧
        t.tx.giveUps = satInc s.tx.giveUps ∧ t.tx.collisions = s.tx.collisions ∧ t.tx.framesSent = s.tx.framesSent ∧
        t.tx.nextSeq = s.tx.nextSeq ∧ t.tx.backOff = none ∧
        t.rx = s.rx ∧ t.timebase = s.timebase ∧ t.cond = s.cond ∧ t.peers = s.peers ∧ t.pending = s.pending ∧
        t.rstLow = s.rstLow ∧
        (∀ g q, s.tx.queue.takeHead = some (g, q) →
          t.tx.state = .waiting ∧ t.tx.queue = q ∧
            t.tx.flight = some { frame := g, content := none, seq := none, attempts := 0 }) ∧
        (s.tx.queue = emptyQueue → t.tx.state = .ready ∧ t.tx.flight = none ∧ t.tx.queue = emptyQueue) ∧
        ((∀ n e, f.frame ≠ .claim n e) →
          t.oc = s.oc ∧
          (s.CanRecord 1 →
            s.host.events ++ [s.event .txGiveUp none none none (some (.frame f.frame.kind))] <+: t.host.events)) ∧
        ∀ n e, f.frame = .claim n e →
          s.OtherEntries t n ∧
          (s.CanRecord 1 →
            s.host.events ++ [s.event .txGiveUp (some n) none (some e) (some (.frame .claim))] <+: t.host.events) ∧
          ∀ x, (s.entry n).state = .claiming → (s.entry n).record = some x → x.claimant = s.station.ownId →
            x.epoch = e →
            s.SettledAs (t.entry n) ∧ (t.entry n).owner = (s.entry n).owner ∧ (t.entry n).epoch = (s.entry n).epoch ∧
              (t.entry n).retryHold = some 100 ∧
              (s.CanRecord 2 →
                s.event .claimFailed (some n) none (some e) (some (.claimFailed .giveUp)) ∈ t.host.events)) ∧
    (s.tx.deafCount = 2 → s.station.phase.sends = true → (∀ n, s.EntryAgrees n) →
      ∃ t, exec .attemptDeaf s = .next t ∧
        t.station = { s.station with phase := .muted, listenTimer := none, statusTimer := none } ∧
        t.tx =
          { s.tx with
            state := .ready, queue := emptyQueue, flight := none, backOff := none, deafCount := 3
            deafAttempts := satInc s.tx.deafAttempts } ∧
        t.timebase = s.timebase ∧ t.cond = s.cond ∧ t.rx = s.rx ∧ t.pending = s.pending ∧ t.rstLow = s.rstLow ∧
        t.peers = { s.peers with isolated := false } ∧
        (∀ n, look t.oc.drv n = false ∧ (t.entry n).wtr = none ∧ (t.entry n).epoch = (s.entry n).epoch ∧
          (t.entry n).retryHold = (s.entry n).retryHold ∧
          ((s.entry n).state = .held →
            (t.entry n).state = .vacant ∧ (t.entry n).owner = none ∧ (t.entry n).changed = s.timebase) ∧
          ((s.entry n).state = .claiming → s.SettledAs (t.entry n) ∧ (t.entry n).owner = (s.entry n).owner) ∧
          ((s.entry n).state ≠ .held → (s.entry n).state ≠ .claiming →
            t.entry n = { s.entry n with wtr := none })) ∧
        (s.CanRecord 18 →
          t.host.events.getLast? = some (s.event .muted none none none (some (.muted .deaf)))))

/-- A back-off whose last bit times pass quietly, or make the line idle, ends in WAITING (R141). The bit times come with
the command (the model's choice, log entries 4 and 19). -/
def Obligations.BackOffEnds : Prop :=
  ∀ (s : State) (line : List Symbol) (r : Receiver) (ev : LineEvent),
    s.tx.state = .backingOff →
    s.tx.backOff = some line.length →
    s.rx.receiving = true →
    s.rx.run line = some (r, ev) →
    ev = .quiet ∨ ev = .idle →
    exec (.backOffEnd line) s = .next ((s.withRx r).withTx { s.tx with state := .waiting, backOff := none })

/-- The bit times that complete twelve empty ones make the line idle (R118, R120). A back-off counts them (the model's
choice, log entry 19). -/
def Obligations.LineBecomesIdle : Prop :=
  ∀ (s : State) (k : Nat),
    s.rx.receiving = true →
    s.tx.state ≠ .driving →
    s.rx.decoder = .seekIdle →
    0 < k →
    s.rx.emptyCount + k = 12 →
    exec (.lineIdle (List.replicate k .empty)) s =
      .next ((passBits k s).withRx { s.rx with decoder := .lineIdle, emptyCount := 12 })

/-- The code errors of OPENING and of IN_FRAME (R121, R122, Table 8-2): the frame is discarded, the error counted, and the
decoder waits for idle. A back-off counts the bit time (the model's choice, log entry 19). -/
def Obligations.CodeErrorsAreCounted : Prop :=
  ∀ (s : State) (b : Symbol),
    s.rx.receiving = true →
    s.tx.state ≠ .driving →
    (s.rx.decoder = .opening ∧ (b = .empty ∨ ∃ p, b = .pulse p ∧ s.rx.lastPolarity ≠ some p)) ∨
      (s.rx.decoder = .inFrame ∧
        ((b = .empty ∧ s.rx.emptyCount = 4) ∨
          ∃ p, b = .pulse p ∧ s.rx.lastPolarity = some p ∧
            (s.rx.emptyCount = 0 ∨ s.rx.emptyCount = 2 ∨ s.rx.emptyCount = 3 ∨
              (s.rx.emptyCount = 1 ∧ s.rx.lastMark ≠ some .contentOne)))) →
    exec (.codeError [b]) s =
      .next
        ((passBits 1 s).withRx
          { s.rx with
            decoder := .seekIdle, assembled := [], overrun := false, lastMark := none
            emptyCount := if isPulse b = true then 0 else min (s.rx.emptyCount + 1) 12
            lastPolarity := lastPulse s.rx.lastPolarity [b]
            codeErrors := satInc s.rx.codeErrors })

/-- A good frame with the own ID while no frame is in flight is an ID clash: counted and posted, taken into no entry, and
the station mutes where it can send (R99, R114, R126). -/
def Obligations.IdClashMutes : Prop :=
  ∀ (f : Frame) (s : State),
    s.rx.receiving = true →
    s.tx.state ≠ .driving →
    s.tx.flight = none →
    s.rx.decoder = .lineIdle →
    f.body.WellFormed →
    f.sender = s.station.ownId →
    ∃ t, exec (.frameReceived (codeFrame (bitsOfBytes (frameBytes f)))) s = .next t ∧
      t.peers.entries = s.peers.entries ∧ t.peers.clashCount = satInc s.peers.clashCount ∧
      t.rx.goodFrames = satInc s.rx.goodFrames ∧ t.timebase = s.timebase ∧ t.cond = s.cond ∧ t.pending = s.pending ∧
      t.rstLow = s.rstLow ∧
      (s.station.phase.sends = true →
        t.station = { s.station with phase := .muted, listenTimer := none, statusTimer := none } ∧
          t.tx.queue = emptyQueue) ∧
      (s.station.phase.sends = false → t.station = s.station ∧ t.oc = s.oc) ∧
      (s.CanRecord 1 →
        s.host.events ++
            [s.event .idClash none (some s.station.ownId) none
              (some (.count (byteOf (min (satInc s.peers.clashCount).toNat 255))))] <+:
          t.host.events)

/-! ## The Peer Monitor -/

/-- The sequence step (R90): a repeat is a duplicate and changes nothing else but the checksum last seen; any other frame
is accepted, and a gap counts what is missing. -/
def Obligations.SequenceStep : Prop :=
  ∀ (f : Frame) (s : State),
    f.checksum = s.station.checksum →
    ((s.peer f.sender).lastSeq = some f.seq →
      takeFrame f s =
        putPeer f.sender
          { s.peer f.sender with
            checksumSeen := some f.checksum, duplicates := satInc (s.peer f.sender).duplicates } s) ∧
    ((s.peer f.sender).lastSeq ≠ some f.seq →
      ((takeFrame f s).peer f.sender).lastSeq = some f.seq ∧
      ((takeFrame f s).peer f.sender).checksumSeen = some f.checksum ∧
      ((takeFrame f s).peer f.sender).accepted = satInc (s.peer f.sender).accepted ∧
      ((takeFrame f s).peer f.sender).duplicates = (s.peer f.sender).duplicates ∧
      ((s.peer f.sender).lastSeq = none →
        ((takeFrame f s).peer f.sender).lost = (s.peer f.sender).lost) ∧
      (∀ last, (s.peer f.sender).lastSeq = some last →
        ((takeFrame f s).peer f.sender).lost =
          satAdd (s.peer f.sender).lost ((f.seq.toNat + 255 - last.toNat) % 256)) ∧
      ∀ q, q ≠ f.sender → (takeFrame f s).peer q = s.peer q)

/-- A frame with another plan checksum is discarded (R89): its sender is INCOMPATIBLE, without a last sequence and without
published data, and none of its counters changes; PEER_INCOMPATIBLE is posted on the change. -/
def Obligations.ChecksumMismatch : Prop :=
  ∀ (f : Frame) (s : State),
    f.checksum ≠ s.station.checksum →
    ((s.peer f.sender).state = .incompatible →
      takeFrame f s =
        putPeer f.sender { s.peer f.sender with checksumSeen := some f.checksum, silence := some 20 } s) ∧
    ((s.peer f.sender).state ≠ .incompatible →
      (takeFrame f s).peer f.sender =
        { s.peer f.sender with
          state := .incompatible, lastSeq := none, silence := some 20, inOrder := 0, data := none
          checksumSeen := some f.checksum } ∧
      (∀ q, q ≠ f.sender → (takeFrame f s).peer q = s.peer q) ∧
      (takeFrame f s).timebase = s.timebase ∧ (takeFrame f s).cond = s.cond ∧
      (takeFrame f s).station = s.station ∧ (takeFrame f s).rx = s.rx ∧
      (s.CanRecord 1 →
        s.host.events ++ [s.event .peerIncompatible none (some f.sender) none none] <+:
          (takeFrame f s).host.events))

/-- The state, data and departure steps (R91 to R94) on a frame that is no duplicate: arrival, the in-order count that
makes a peer LIVE at 2, and the departure by a STATUS with phase LEAVING, which makes the peer ABSENT directly, so that
PEER_LEFT is posted and PEER_LIVE is not, also where that STATUS is the second in order (the model's reading, log entry 14),
leaves the peer the owner of no defined service, epochs kept, and removes its watched claims (R70). -/
def Obligations.PeerStates : Prop :=
  ∀ (f : Frame) (s : State),
    f.checksum = s.station.checksum →
    (s.peer f.sender).lastSeq ≠ some f.seq →
    (s.peer f.sender).state ≠ .self →
    (∀ b, f.body = .status b → ((takeFrame f s).peer f.sender).data = some b) ∧
    (f.body.isStatus = false → ((takeFrame f s).peer f.sender).data = (s.peer f.sender).data) ∧
    (f.body.isLeaving = true →
      ((takeFrame f s).peer f.sender).state = .absent ∧ ((takeFrame f s).peer f.sender).silence = none ∧
        ((takeFrame f s).peer f.sender).inOrder = 0 ∧
        (s.CanRecord 19 →
          s.event .peerLeft none (some f.sender) none none ∈ (takeFrame f s).host.events) ∧
        (takeFrame f s).host.events.filter (fun x => decide (x.kind = .peerLive)) =
          s.host.events.filter (fun x => decide (x.kind = .peerLive)) ∧
        (f.sender ≠ s.station.ownId → (∀ b, f.body = .status b → b.held = []) → ∀ n, (s.planOf n).defined = true →
          ((takeFrame f s).entry n).owner ≠ some f.sender ∧
          ((s.entry n).owner = some f.sender → ((takeFrame f s).entry n).owner = none) ∧
          ((takeFrame f s).entry n).epoch = (s.entry n).epoch ∧
          ∀ r, ((takeFrame f s).entry n).record = some r → r.claimant ≠ f.sender)) ∧
    (f.body.isLeaving = false →
      ((takeFrame f s).peer f.sender).silence = some 20 ∧
      ((s.peer f.sender).state = .live →
        ((takeFrame f s).peer f.sender).state = .live ∧
          ((takeFrame f s).peer f.sender).inOrder = (s.peer f.sender).inOrder) ∧
      ((s.peer f.sender).state ≠ .live → (s.peer f.sender).state ≠ .arriving →
        ((takeFrame f s).peer f.sender).state = .arriving ∧ ((takeFrame f s).peer f.sender).inOrder = 0) ∧
      ∀ last, (s.peer f.sender).state = .arriving → (s.peer f.sender).lastSeq = some last →
        (s.peer f.sender).inOrder < 2 →
        (f.body.isStatus = true → f.seq = last + 1 → (s.peer f.sender).inOrder = 1 →
          ((takeFrame f s).peer f.sender).state = .live ∧ ((takeFrame f s).peer f.sender).inOrder = 2 ∧
          (s.CanRecord 1 →
            s.host.events ++ [s.event .peerLive none (some f.sender) none none] <+: (takeFrame f s).host.events)) ∧
        (f.body.isStatus = true → f.seq = last + 1 → (s.peer f.sender).inOrder = 0 →
          ((takeFrame f s).peer f.sender).state = .arriving ∧ ((takeFrame f s).peer f.sender).inOrder = 1) ∧
        (f.body.isStatus = true → f.seq ≠ last + 1 →
          ((takeFrame f s).peer f.sender).state = .arriving ∧ ((takeFrame f s).peer f.sender).inOrder = 1) ∧
        (f.body.isStatus = false → f.seq = last + 1 →
          ((takeFrame f s).peer f.sender).state = .arriving ∧
            ((takeFrame f s).peer f.sender).inOrder = (s.peer f.sender).inOrder) ∧
        (f.body.isStatus = false → f.seq ≠ last + 1 →
          ((takeFrame f s).peer f.sender).state = .arriving ∧ ((takeFrame f s).peer f.sender).inOrder = 0))

/-- The delivery of a frame of a LIVE peer that is no duplicate (R88, R95): the Peer Table entry is brought up to date,
and then a CLAIM, the entries of a RELEASE or OBJECT in their order, or a STATUS that is not a LEAVING one reaches the
Ownership Controller, a STATUS with the published data replaced and with the services marked whose grade, class or rank
differs (R87). -/
def Obligations.FramesAreDelivered : Prop :=
  ∀ (f : Frame) (s : State) (last : Byte),
    f.checksum = s.station.checksum →
    (s.peer f.sender).state = .live →
    (s.peer f.sender).lastSeq = some last →
    last ≠ f.seq →
    let e : PeerEntry :=
      { s.peer f.sender with
        lastSeq := some f.seq, checksumSeen := some f.checksum, silence := some 20
        accepted := satInc (s.peer f.sender).accepted
        lost := satAdd (s.peer f.sender).lost ((f.seq.toNat + 255 - last.toNat) % 256) }
    (∀ c, f.body = .claim c → takeFrame f s = receiveClaim f.sender c (putPeer f.sender e s)) ∧
    (∀ xs, f.body = .release xs →
      takeFrame f s = xs.foldl (fun t x => receiveRelease f.sender x t) (putPeer f.sender e s)) ∧
    (∀ xs, f.body = .object xs →
      takeFrame f s = xs.foldl (fun t x => receiveObject f.sender x t) (putPeer f.sender e s)) ∧
    ∀ b, f.body = .status b → b.phase ≠ .leaving →
      ∃ marks : Table Bool,
        (∀ n, look marks n = true ↔ ∀ old, e.data = some old → look old.services n ≠ look b.services n) ∧
        takeFrame f s = receiveStatus f.sender b marks (putPeer f.sender { e with data := some b } s)

/-! ## The Ownership Controller -/

/-- A CLAIM at a station that does not hold the service (R23 to R26): ignored; or recorded, the entry WATCHING for 8 ms;
or compared with the record there, which the better claim replaces, an own claim failing as BEATEN. -/
def Obligations.ClaimsAtNonHolder : Prop :=
  ∀ (p : StationId) (c : ClaimBody) (s : State),
    (s.entry c.service).state ≠ .held →
    ((s.planOf c.service).defined = false ∨ c.claimed.grade = .unav ∨ c.claimed.rank = 0 ∨ s.isLive p = false ∨
        compareEpochs (some c.epoch) (s.entry c.service).epoch ≠ .newer →
      receiveClaim p c s = s) ∧
    ((s.planOf c.service).defined = true → c.claimed.grade ≠ .unav → c.claimed.rank ≠ 0 → s.isLive p = true →
        compareEpochs (some c.epoch) (s.entry c.service).epoch = .newer →
      ((s.entry c.service).record = none → s.station.phase ≠ .active →
        receiveClaim p c s =
          putEntry c.service
            { s.entry c.service with
              state := .watching
              record := some
                { claimant := p, epoch := c.epoch, mode := c.mode, claimed := c.claimed, sent := none
                  window := some 8, releaseHeard := false, listing := .notHeard } } s) ∧
      ∀ r, (s.entry c.service).record = some r →
        (compareEpochs (some c.epoch) (some r.epoch) = .older ∨
            (c.epoch = r.epoch ∧ p ≠ r.claimant ∧ (c.claimed.tuple p).better r.tuple = false) →
          receiveClaim p c s = s) ∧
        (compareEpochs (some c.epoch) (some r.epoch) = .newer ∨
            (c.epoch = r.epoch ∧ ((c.claimed.tuple p).better r.tuple = true ∨ p = r.claimant)) →
          ((receiveClaim p c s).entry c.service).record = some
              { claimant := p, epoch := c.epoch, mode := c.mode, claimed := c.claimed, sent := none
                window := some 8, releaseHeard := false, listing := .notHeard } ∧
          s.OtherEntries (receiveClaim p c s) c.service ∧ s.OnlyOwnership (receiveClaim p c s) ∧
          (receiveClaim p c s).tx = s.tx ∧
          (r.claimant ≠ s.station.ownId →
            (receiveClaim p c s).host = s.host ∧
              ((receiveClaim p c s).entry c.service).changed = (s.entry c.service).changed) ∧
          (r.claimant = s.station.ownId → (s.entry c.service).state = .claiming →
            ((receiveClaim p c s).entry c.service).state = .watching ∧
            ((receiveClaim p c s).entry c.service).retryHold = some 100 ∧
            ((receiveClaim p c s).entry c.service).changed = s.timebase ∧
            (s.CanRecord 1 →
              (receiveClaim p c s).host.events = s.host.events ++
                [s.event .claimFailed (some c.service) (some p) (some r.epoch) (some (.claimFailed .beaten))]))))

/-- The holder's answer to a claim (R23, R44 to R47, R73, Table 3-2): one with grade UNAV or rank 0, or for an undefined
service, is ignored; a VACANT one, or one with another target, is answered with OBJECT(OWNER_LIVE) whatever its epoch and
sender; a TAKEOVER of this station with a stale epoch, and one refused, queue an OBJECT and leave the entry; agreement
hands the service over. -/
def Obligations.HolderJudgesTakeover : Prop :=
  ∀ (p : StationId) (c : ClaimBody) (s : State) (h : Epoch),
    s.station.phase = .active →
    (s.entry c.service).state = .held →
    (s.entry c.service).epoch = some h →
    ((s.planOf c.service).defined = false ∨ c.claimed.grade = .unav ∨ c.claimed.rank = 0 → receiveClaim p c s = s) ∧
    ((s.planOf c.service).defined = true → c.claimed.grade ≠ .unav → c.claimed.rank ≠ 0 →
      c.mode ≠ .takeover s.station.ownId →
      (receiveClaim p c s).oc = s.oc ∧ (receiveClaim p c s).host = s.host ∧ s.OnlyOwnership (receiveClaim p c s) ∧
      (receiveClaim p c s).ObjectWaits
        { service := c.service, claimant := p, claimEpoch := c.epoch, holderEpoch := h, cause := .ownerLive }) ∧
    ((s.planOf c.service).defined = true → c.claimed.grade ≠ .unav → c.claimed.rank ≠ 0 →
      c.mode = .takeover s.station.ownId →
      s.OtherEntries (receiveClaim p c s) c.service ∧ s.OnlyOwnership (receiveClaim p c s) ∧
      (c.epoch ≠ h + 1 →
        (receiveClaim p c s).oc = s.oc ∧ (receiveClaim p c s).host = s.host ∧
        (receiveClaim p c s).ObjectWaits
          { service := c.service, claimant := p, claimEpoch := c.epoch, holderEpoch := h, cause := .staleEpoch }) ∧
      (c.epoch = h + 1 →
        (s.isLive p = false →
          (receiveClaim p c s).oc = s.oc ∧ (receiveClaim p c s).host = s.host ∧
          (receiveClaim p c s).ObjectWaits
            { service := c.service, claimant := p, claimEpoch := c.epoch, holderEpoch := h, cause := .notBetter }) ∧
        (s.isLive p = true →
          ((c.claimed.cls = .force ∧ (s.condition c.service).cls = .normal) ∨
              (c.claimed.cls = .force ∧ (s.condition c.service).cls = .force ∧
                c.claimed.grade.better (s.condition c.service).grade = true) ∨
              (c.claimed.cls = .normal ∧ (s.condition c.service).cls = .normal ∧
                (c.claimed.grade.better (s.condition c.service).grade = true ∨
                  ((s.planOf c.service).revertive = true ∧ c.claimed.grade = (s.condition c.service).grade ∧
                    c.claimed.grade ≠ .fail ∧ c.claimed.rank < (s.planOf c.service).rank))) →
            ((receiveClaim p c s).entry c.service).state = .remote ∧
            ((receiveClaim p c s).entry c.service).owner = some p ∧
            ((receiveClaim p c s).entry c.service).epoch = some c.epoch ∧
            ((receiveClaim p c s).entry c.service).retryHold = some 100 ∧
            ((receiveClaim p c s).entry c.service).changed = s.timebase ∧
            look (receiveClaim p c s).oc.drv c.service = false ∧
            (receiveClaim p c s).ReleaseWaits { service := c.service, epoch := h, reason := .handover } ∧
            (s.CanRecord 1 →
              (receiveClaim p c s).host.events = s.host.events ++
                [s.event .svcDropped (some c.service) (some p) (some c.epoch) (some (.dropped .handover))])) ∧
          ((c.claimed.cls = .normal ∧ (s.condition c.service).cls = .force) ∨
              (c.claimed.cls = .force ∧ (s.condition c.service).cls = .force ∧
                c.claimed.grade.better (s.condition c.service).grade = false) →
            (receiveClaim p c s).oc = s.oc ∧ (receiveClaim p c s).host = s.host ∧
            (receiveClaim p c s).ObjectWaits
              { service := c.service, claimant := p, claimEpoch := c.epoch, holderEpoch := h, cause := .forceHeld }) ∧
          (c.claimed.cls = .normal ∧ (s.condition c.service).cls = .normal ∧
              c.claimed.grade.better (s.condition c.service).grade = false ∧
              ((s.planOf c.service).revertive = false ∨ c.claimed.grade ≠ (s.condition c.service).grade ∨
                c.claimed.grade = .fail ∨ (s.planOf c.service).rank ≤ c.claimed.rank) →
            (receiveClaim p c s).oc = s.oc ∧ (receiveClaim p c s).host = s.host ∧
            (receiveClaim p c s).ObjectWaits
              { service := c.service, claimant := p, claimEpoch := c.epoch, holderEpoch := h, cause := .notBetter }))))

/-- RELEASE entries (R11, R37, R50, R51): a withdrawal removes the watched claim it names; an answer to a TAKEOVER claim
is remembered, and ends a running window with acceptance; the owner's release leaves the service VACANT; any other changes
nothing. -/
def Obligations.ReleaseEntries : Prop :=
  ∀ (p : StationId) (x : ReleaseEntry) (s : State),
    ((s.planOf x.service).defined = false → receiveRelease p x s = s) ∧
    ((s.planOf x.service).defined = true →
      (x.reason = .withdraw →
        (∀ r, (s.entry x.service).state = .watching → (s.entry x.service).record = some r → r.claimant = p →
          r.epoch = x.epoch →
          ((receiveRelease p x s).entry x.service).owner = (s.entry x.service).owner ∧
          ((receiveRelease p x s).entry x.service).epoch = (s.entry x.service).epoch ∧
          (s.station.phase ≠ .active → s.SettledAs ((receiveRelease p x s).entry x.service)) ∧
          s.OtherEntries (receiveRelease p x s) x.service ∧ s.OnlyOwnership (receiveRelease p x s) ∧
          (receiveRelease p x s).host = s.host) ∧
        ((s.entry x.service).state ≠ .watching ∨
            (∀ r ∈ (s.entry x.service).record, r.claimant ≠ p ∨ r.epoch ≠ x.epoch) →
          receiveRelease p x s = s)) ∧
      (x.reason ≠ .withdraw →
        (∀ r, (s.entry x.service).record = some r → r.mode = .takeover p → x.epoch = r.epoch - 1 →
          (r.window = none →
            receiveRelease p x s =
              putEntry x.service { s.entry x.service with record := some { r with releaseHeard := true } } s) ∧
          (r.window ≠ none → (s.entry x.service).state = .claiming → s.EntryAgrees x.service →
            ((receiveRelease p x s).entry x.service).state = .held ∧
            ((receiveRelease p x s).entry x.service).owner = some s.station.ownId ∧
            ((receiveRelease p x s).entry x.service).epoch = some r.epoch ∧
            ((receiveRelease p x s).entry x.service).record = none ∧
            look (receiveRelease p x s).oc.drv x.service = true) ∧
          (r.window ≠ none → (s.entry x.service).state = .watching → s.EntryAgrees x.service →
            ((receiveRelease p x s).entry x.service).owner = some r.claimant ∧
            ((receiveRelease p x s).entry x.service).epoch = some r.epoch)) ∧
        ((s.entry x.service).record = none → (s.entry x.service).owner = some p →
          (s.entry x.service).epoch = some x.epoch → (s.entry x.service).state ≠ .held →
          ((receiveRelease p x s).entry x.service).owner = none ∧
          ((receiveRelease p x s).entry x.service).epoch = some x.epoch ∧
          (s.station.phase ≠ .active →
            ((receiveRelease p x s).entry x.service).state = .vacant ∧
            ((receiveRelease p x s).entry x.service).record = none) ∧
          s.OtherEntries (receiveRelease p x s) x.service ∧ s.OnlyOwnership (receiveRelease p x s) ∧
          (s.CanRecord 1 →
            (receiveRelease p x s).host.events =
              s.host.events ++ [s.event .ownerChanged (some x.service) none (some x.epoch) none])) ∧
        (∀ r, (s.entry x.service).record = some r → r.mode ≠ .takeover p ∨ x.epoch ≠ r.epoch - 1 →
          (s.entry x.service).owner = some p → (s.entry x.service).epoch = some x.epoch →
          receiveRelease p x s = changeEntry x.service { s.entry x.service with owner := none } s) ∧
        ((∀ r ∈ (s.entry x.service).record, r.mode ≠ .takeover p ∨ x.epoch ≠ r.epoch - 1) →
          (s.entry x.service).owner ≠ some p ∨ (s.entry x.service).epoch ≠ some x.epoch →
          receiveRelease p x s = s)))

/-- OBJECT entries (R11, R31, R33): an entry that names no record here changes nothing; one that names the record removes
it, the objector becoming the owner for OWNER_LIVE, and an own claim fails with the cause and the retry hold. -/
def Obligations.ObjectEntries : Prop :=
  ∀ (p : StationId) (x : ObjectEntry) (s : State),
    ((s.planOf x.service).defined = false ∨
        (∀ r ∈ (s.entry x.service).record, r.claimant ≠ x.claimant ∨ r.epoch ≠ x.claimEpoch) →
      receiveObject p x s = s) ∧
    ∀ r, (s.planOf x.service).defined = true → (s.entry x.service).record = some r → r.claimant = x.claimant →
      r.epoch = x.claimEpoch →
      s.OtherEntries (receiveObject p x s) x.service ∧ s.OnlyOwnership (receiveObject p x s) ∧
      (x.cause = .ownerLive →
        ((receiveObject p x s).entry x.service).owner = some p ∧
          ((receiveObject p x s).entry x.service).epoch = some x.holderEpoch) ∧
      (x.cause ≠ .ownerLive →
        ((receiveObject p x s).entry x.service).owner = (s.entry x.service).owner ∧
          ((receiveObject p x s).entry x.service).epoch = (s.entry x.service).epoch) ∧
      (r.claimant = s.station.ownId →
        s.SettledAs ((receiveObject p x s).entry x.service) ∧
        ((receiveObject p x s).entry x.service).retryHold = some 100 ∧ (receiveObject p x s).tx = s.tx ∧
        (s.CanRecord 1 →
          s.host.events ++
              [s.event .claimFailed (some x.service) (some p) (some r.epoch)
                (some (.claimFailed (.objected x.cause)))] <+:
            (receiveObject p x s).host.events)) ∧
      (r.claimant ≠ s.station.ownId → s.station.phase ≠ .active →
        s.SettledAs ((receiveObject p x s).entry x.service) ∧
        ((receiveObject p x s).entry x.service).retryHold = (s.entry x.service).retryHold)

/-- Reconciliation of an entry that is not HELD from a peer's STATUS (Table 4-1, R3, R60 to R63): with a record, only the
holder listing follows; without one, the peer is the authority on its own holding, fills a VACANT or ORPHANED entry, and
takes a REMOTE one by epoch, then by tuple. A delivered STATUS takes the defined services in ascending order, each on its
own entry: it is reconciled, and evaluated when that changed its state, owner or epoch, or when it is marked and the peer
is LIVE (R14, R60, R64). A listing is the epoch at which the held list names the service. -/
def Obligations.ReconciliationFromStatus : Prop :=
  (∀ (b : StatusBody) (n : Service) (e : Epoch), (b.held.map Prod.fst).Nodup →
    (b.listing n = some e ↔ (n, e) ∈ b.held)) ∧
  (∀ (p : StationId) (b : StatusBody) (marks : Table Bool) (s : State),
    let service : State → Service → State := fun t n =>
      let u := if (s.planOf n).defined = true then reconcile n p b t else t
      if (u.entry n).state ≠ (t.entry n).state ∨ (u.entry n).owner ≠ (t.entry n).owner ∨
          (u.entry n).epoch ≠ (t.entry n).epoch ∨ (look marks n = true ∧ s.isLive p = true) then
        evaluate n u
      else u
    receiveStatus p b marks s = (List.finRange 16).foldl service s ∧
    s.OnlyOwnership (receiveStatus p b marks s) ∧
    ∀ n, (receiveStatus p b marks s).entry n = (service s n).entry n ∧
      look (receiveStatus p b marks s).oc.drv n = look (service s n).oc.drv n ∧
      (s.station.phase ≠ .active → (s.planOf n).defined = true →
        (receiveStatus p b marks s).entry n = (reconcile n p b s).entry n) ∧
      (s.station.phase ≠ .active → (s.planOf n).defined = false →
        (receiveStatus p b marks s).entry n = s.entry n)) ∧
  ∀ (n : Service) (p : StationId) (b : StatusBody) (s : State),
    (s.entry n).state ≠ .held →
    s.OtherEntries (reconcile n p b s) n ∧ s.OnlyOwnership (reconcile n p b s) ∧ (reconcile n p b s).tx = s.tx ∧
    (∀ r, (s.entry n).record = some r →
      (r.mode = .takeover p →
        reconcile n p b s =
          putEntry n
            { s.entry n with
              record := some { r with listing := if b.listing n = none then .notListed else .listed } } s) ∧
      (r.mode ≠ .takeover p → (reconcile n p b s).entry n = s.entry n)) ∧
    ((s.entry n).record = none →
      ((s.entry n).owner = some p →
        (b.listing n = none →
          ((reconcile n p b s).entry n).owner = none ∧ ((reconcile n p b s).entry n).state = .vacant ∧
            ((reconcile n p b s).entry n).epoch = (s.entry n).epoch) ∧
        (∀ f, b.listing n = some f →
          ((reconcile n p b s).entry n).owner = some p ∧
            ((reconcile n p b s).entry n).state = (s.entry n).state ∧
            ((reconcile n p b s).entry n).epoch = some f ∧
            ((s.entry n).epoch = some f → reconcile n p b s = s) ∧
            ((s.entry n).epoch ≠ some f → s.CanRecord 1 →
              (reconcile n p b s).host.events =
                s.host.events ++ [s.event .ownerChanged (some n) (some p) (some f) none]))) ∧
      ((s.entry n).owner ≠ some p →
        (b.listing n = none → reconcile n p b s = s) ∧
        (∀ f, b.listing n = some f →
          (s.entry n).state = .vacant ∨ (s.entry n).state = .orphaned ∨
            ((s.entry n).state = .remote ∧ (s.entry n).owner ≠ none ∧
              compareEpochs (some f) (s.entry n).epoch = .newer) →
          ((reconcile n p b s).entry n).owner = some p ∧ ((reconcile n p b s).entry n).epoch = some f ∧
          s.SettledAs ((reconcile n p b s).entry n)) ∧
        (∀ f q y, b.listing n = some f → (s.entry n).state = .remote → (s.entry n).owner = some q →
          s.published q n = some y →
          (compareEpochs (some f) (s.entry n).epoch = .older → reconcile n p b s = s) ∧
          ((s.entry n).epoch = some f →
            (((look b.services n).tuple p).better (y.tuple q) = false → reconcile n p b s = s) ∧
            (((look b.services n).tuple p).better (y.tuple q) = true →
              ((reconcile n p b s).entry n).owner = some p ∧ ((reconcile n p b s).entry n).epoch = some f ∧
              s.SettledAs ((reconcile n p b s).entry n))))))

/-- A HELD entry that a peer lists (R65 to R68): an ARRIVING peer changes nothing; a LIVE one takes the service by a newer
epoch, or an equal one with a better tuple, and no RELEASE is queued; otherwise the service is kept, DUAL_HOLD is posted,
and an early STATUS is asked for. -/
def Obligations.DualHoldIsSettled : Prop :=
  ∀ (n : Service) (p : StationId) (b : StatusBody) (s : State) (e f : Epoch),
    s.station.phase = .active →
    (s.entry n).state = .held →
    (s.entry n).record = none →
    (s.entry n).owner = some s.station.ownId →
    p ≠ s.station.ownId →
    (s.entry n).epoch = some e →
    b.listing n = some f →
    (s.isLive p = false → reconcile n p b s = s) ∧
    (s.isLive p = true →
      s.OtherEntries (reconcile n p b s) n ∧ s.OnlyOwnership (reconcile n p b s) ∧
      (compareEpochs (some f) (some e) = .newer ∨
          (f = e ∧ ((look b.services n).tuple p).better (s.ownTuple n) = true) →
        (reconcile n p b s).entry n =
          { s.entry n with
            state := .remote, owner := some p, epoch := some f, retryHold := some 100, changed := s.timebase } ∧
        look (reconcile n p b s).oc.drv n = false ∧ (reconcile n p b s).tx = s.tx ∧
        (s.CanRecord 1 →
          (reconcile n p b s).host.events =
            s.host.events ++ [s.event .svcDropped (some n) (some p) (some f) (some (.dropped .superseded))])) ∧
      (compareEpochs (some f) (some e) = .older ∨
          (f = e ∧ ((look b.services n).tuple p).better (s.ownTuple n) = false) →
        (reconcile n p b s).oc = s.oc ∧ (reconcile n p b s).StatusWaits ∧
        (s.CanRecord 1 →
          (reconcile n p b s).host.events =
            s.host.events ++
              [s.event .dualHold (some n) (some p) (some e)
                (some (.dualHold (if f = e then .tuple else .epoch)))])))

/-- The Transmit Queue merges (R131 to R134): a second STATUS is none; a RELEASE or OBJECT entry forms a frame at the end
of the urgent class when none of its kind is queued, and otherwise stands at the end of the queued list, or in the place
of the list's entry for its service, the frame keeping its place; a RELEASE entry takes a queued CLAIM for its service
away; a CLAIM takes its place at the end of its class, once for its service; the head is the first urgent frame with its
list, then the first CLAIM, then the STATUS. -/
def Obligations.QueueMerges : Prop :=
  ∀ q : TxQueue,
    q.Limited →
    q.size ≤ 19 ∧
    (q.addStatus.Limited ∧ q.addStatus = { q with status := true }) ∧
    (∀ x : ReleaseEntry, (q.addRelease x).Limited ∧
      (q.addRelease x).claims = q.claims.filter (fun c => decide (c.1 ≠ x.service)) ∧
      (q.addRelease x).status = q.status ∧
      ((∀ es, UrgentFrame.release es ∉ q.urgent) → (q.addRelease x).urgent = q.urgent ++ [.release [x]]) ∧
      ∀ (i : Nat) (es : List ReleaseEntry), q.urgent[i]? = some (.release es) →
        ((∀ y ∈ es, y.service ≠ x.service) → (q.addRelease x).urgent = q.urgent.set i (.release (es ++ [x]))) ∧
        ∀ (j : Nat) (y : ReleaseEntry), es[j]? = some y → y.service = x.service →
          (q.addRelease x).urgent = q.urgent.set i (.release (es.set j x))) ∧
    (∀ x : ObjectEntry, (q.addObject x).Limited ∧
      (q.addObject x).claims = q.claims ∧ (q.addObject x).status = q.status ∧
      ((∀ es, UrgentFrame.object es ∉ q.urgent) → (q.addObject x).urgent = q.urgent ++ [.object [x]]) ∧
      ∀ (i : Nat) (es : List ObjectEntry), q.urgent[i]? = some (.object es) →
        ((∀ y ∈ es, y.service ≠ x.service) → (q.addObject x).urgent = q.urgent.set i (.object (es ++ [x]))) ∧
        ∀ (j : Nat) (y : ObjectEntry), es[j]? = some y → y.service = x.service →
          (q.addObject x).urgent = q.urgent.set i (.object (es.set j x))) ∧
    (∀ n e, (q.addClaim n e).Limited ∧
      q.addClaim n e = { q with claims := q.claims.filter (fun c => decide (c.1 ≠ n)) ++ [(n, e)] }) ∧
    (q.takeHead = none ↔ q = emptyQueue) ∧
    (∀ es us, q.urgent = .release es :: us → q.takeHead = some (.release es, { q with urgent := us })) ∧
    (∀ es us, q.urgent = .object es :: us → q.takeHead = some (.object es, { q with urgent := us })) ∧
    (∀ n e cs, q.urgent = [] → q.claims = (n, e) :: cs → q.takeHead = some (.claim n e, { q with claims := cs })) ∧
    (q.urgent = [] → q.claims = [] → q.status = true → q.takeHead = some (.status, { q with status := false }))

/-! ## The host -/

/-- START in CONFIG (R78, R105, R106, R129): the checksum is computed, the phase is LISTEN with both timers started, the
receiver starts idle, the grades are taken from the pins, a STATUS waits, and PHASE_CHANGED(LISTEN) is posted last. -/
def Obligations.StartEntersListen : Prop :=
  ∀ s : State,
    s.host.txn = .data .write (.at 0x0D) →
    s.station.phase = .config →
    s.BlocksAgree →
    ∃ t, exec .start s = .next t ∧
      t.station =
        { s.station with
          phase := .listen, checksum := planChecksum s.station.plan, listenTimer := some 60
          statusTimer := some 4 } ∧
      t.rx =
        { s.rx with
          receiving := true, decoder := .seekIdle, emptyCount := 0, lastPolarity := none, assembled := []
          overrun := false, lastMark := none } ∧
      (∀ n, t.condition n =
        { s.condition n with
          timer := none, debounced := (s.condition n).raw
          grade := formGrade (s.planOf n) (s.condition n).raw (s.condition n).request }) ∧
      t.oc = s.oc ∧ t.peers = s.peers ∧ t.timebase = s.timebase ∧ t.pending = s.pending ∧ t.rstLow = s.rstLow ∧
      t.StatusWaits ∧
      t.host.result = .done ∧ t.host.code = 1 ∧ t.host.txn = .data .write .pastEnd ∧
      (s.CanRecord 17 →
        t.host.events.getLast? = some (s.event .phaseChanged none none none (some (.phase .listen))))

/-- LEAVE in LISTEN or ACTIVE (R35, R36, R111, R144): held services are released and own claims ended, each with its
RELEASE entry where the rules give one, the drives are off, no CLAIM is queued, the final STATUS waits, and
PHASE_CHANGED(LEAVING) is posted last. -/
def Obligations.LeaveReleasesEverything : Prop :=
  ∀ s : State,
    s.host.txn = .data .write (.at 0x0D) →
    s.station.phase = .listen ∨ s.station.phase = .active →
    (∀ n, s.EntryAgrees n) →
    ∃ t, exec .leave s = .next t ∧
      t.station = { s.station with phase := .leaving, listenTimer := none, statusTimer := none } ∧
      t.host.result = .done ∧ t.host.code = 2 ∧ t.host.txn = .data .write .pastEnd ∧ t.StatusWaits ∧
      t.tx.queue.claims = [] ∧
      t.peers = { s.peers with isolated := false } ∧
      t.timebase = s.timebase ∧ t.cond = s.cond ∧ t.rx = s.rx ∧ t.pending = s.pending ∧ t.rstLow = s.rstLow ∧
      (∀ n, look t.oc.drv n = false ∧ (t.entry n).epoch = (s.entry n).epoch ∧
        ((s.entry n).state = .held →
          t.entry n = { s.entry n with state := .vacant, owner := none, wtr := none, changed := s.timebase } ∧
            t.ReleaseWaits { service := n, epoch := (s.entry n).heldEpoch, reason := .leave }) ∧
        (∀ r, (s.entry n).state = .claiming → (s.entry n).record = some r →
          s.SettledAs (t.entry n) ∧ (t.entry n).owner = (s.entry n).owner ∧ (t.entry n).wtr = none ∧
            (t.entry n).retryHold = some 100 ∧
            (r.sent = some .sent → t.ReleaseWaits { service := n, epoch := r.epoch, reason := .withdraw })) ∧
        ((s.entry n).state ≠ .held → (s.entry n).state ≠ .claiming →
          t.entry n = { s.entry n with wtr := none })) ∧
      (s.CanRecord 18 →
        t.host.events.getLast? = some (s.event .phaseChanged none none none (some (.phase .leaving))))

/-- RESTART, in every phase, on its byte in a write transaction, which goes on (R147; R19, R85, R101, R116, R130, R145,
R156). -/
def Obligations.RestartClearsBlocks : Prop :=
  ∀ s : State, s.host.txn = .data .write (.at 0x0D) → ∃ t, exec .restart s = .next t ∧
    (∀ n, look t.oc.drv n = false ∧
      t.entry n =
        { state := .vacant, owner := none, epoch := none, record := none, wtr := none, retryHold := none
          changed := s.timebase }) ∧
    (∀ n, t.condition n =
      { sf := (s.condition n).sf, sd := (s.condition n).sd, raw := rawOf (s.condition n).sf (s.condition n).sd
        debounced := .ok, timer := none, request := .none, cls := .normal
        grade := if (s.planOf n).defined = true ∧ (s.planOf n).rank ≠ 0 then .ok else .unav }) ∧
    (∀ p, t.peer p =
      { state := if p = s.station.ownId then .self else .absent, lastSeq := none, silence := none, inOrder := 0
        data := none, checksumSeen := none, accepted := (s.peer p).accepted, lost := (s.peer p).lost
        duplicates := (s.peer p).duplicates }) ∧
    t.peers.isolated = false ∧ t.peers.clashCount = s.peers.clashCount ∧
    t.station = { s.station with phase := .config, listenTimer := none, statusTimer := none } ∧
    t.rx =
      { s.rx with
        receiving := false, decoder := .seekIdle, emptyCount := 0, lastPolarity := none, assembled := []
        overrun := false, lastMark := none } ∧
    t.tx = { s.tx with state := .ready, queue := emptyQueue, flight := none, backOff := none, deafCount := 0 } ∧
    t.timebase = s.timebase ∧ t.pending = s.pending ∧ t.rstLow = s.rstLow ∧
    t.host =
      { s.host with
        result := .done, code := 3, txn := .data .write .pastEnd, events := t.host.events
        lost := t.host.lost, irq := t.host.irq } ∧
    (s.CanRecord 1 →
      t.host.events = s.host.events ++ [s.event .phaseChanged none none none (some (.phase .config))])

/-- Hard reset (R19, R85, R101, R104, R117, R130, R145, R156): every block at its reset values, while RST is low and after
it, with the own ID sampled when RST returns high or power-on completes. That the ID sampled last stands while RST is low,
that the pins keep their levels and the waiting commands wait on is the model's choice (log entry 25). The reset values
that the spec does not give (the command code, the latch's timestamp; log entries 6 and 7) are left open here. -/
def Obligations.HardResetClearsEverything : Prop :=
  ∀ (rst : RstLevel) (id : StationId) (s : State),
    rst = .high id ∨ (rst = .low ∧ id = s.station.ownId) →
    ∃ t, exec (.hardReset rst) s = .next t ∧
    (t.rstLow = true ↔ rst = .low) ∧
    t.timebase = 0 ∧
    (∀ n, look t.oc.drv n = false ∧
      t.entry n =
        { state := .vacant, owner := none, epoch := none, record := none, wtr := none, retryHold := none
          changed := 0 }) ∧
    (∀ n, t.condition n =
      { sf := (s.condition n).sf, sd := (s.condition n).sd, raw := rawOf (s.condition n).sf (s.condition n).sd
        debounced := .ok, timer := none, request := .none, grade := .unav, cls := .normal }) ∧
    (∀ p, t.peer p =
      { state := if p = id then .self else .absent, lastSeq := none, silence := none, inOrder := 0, data := none
        checksumSeen := none, accepted := 0, lost := 0, duplicates := 0 }) ∧
    t.peers.isolated = false ∧ t.peers.clashCount = 0 ∧
    t.station.phase = .config ∧ t.station.checksum = 0 ∧ t.station.listenTimer = none ∧
    t.station.statusTimer = none ∧ t.station.ownId = id ∧
    (∀ n, t.planOf n = { defined := false, revertive := false, wtr := 1, rank := 0, holdOff := 0 }) ∧
    t.station.plan.version = 0 ∧ t.station.plan.expectedPeers = 0 ∧
    t.rx =
      { receiving := false, decoder := .seekIdle, emptyCount := 0, lastPolarity := none, assembled := []
        overrun := false, lastMark := none, goodFrames := 0, codeErrors := 0, crcErrors := 0, formatErrors := 0 } ∧
    t.tx =
      { state := .ready, queue := { urgent := [], claims := [], status := false }, flight := none, backOff := none
        nextSeq := 0, deafCount := 0, framesSent := 0, collisions := 0, deafAttempts := 0, giveUps := 0 } ∧
    t.host.txn = .idle ∧ t.host.fetched = none ∧ t.host.planSelect = 0 ∧ t.host.argument = 0 ∧ t.host.result = .done ∧
    t.host.irqEnable = false ∧ t.host.irq = false ∧
    t.host.mask = { service := true, condition := true, peer := true, station := true } ∧
    t.host.events = [] ∧ t.host.lost = 0 ∧
    t.host.latch = noneRecord t.host.latch.timestamp ∧
    t.host.serviceSnap = { select := 0, bytes := Vector.replicate 18 0 } ∧
    t.host.peerSnap = { select := 0, bytes := Vector.replicate 49 0 } ∧
    t.host.counterSnap = { select := 0, bytes := Vector.replicate 24 0 } ∧
    t.pending = s.pending ∧ t.freeCount = s.freeCount

/-- A refused command, on its byte in a write transaction, changes the command result and the current address alone (R81,
R106, R111, R150), and the command code byte with it (the model's choice, log entry 6). -/
def Obligations.RefusedCommands : Prop :=
  ∀ s : State,
    s.host.txn = .data .write (.at 0x0D) →
    (s.station.phase ≠ .config → exec .start s = .next (s.refusedCode 0x01 .refusedPhase)) ∧
    (s.station.phase ≠ .listen → s.station.phase ≠ .active →
      exec .leave s = .next (s.refusedCode 0x02 .refusedPhase) ∧
      exec .force s = .next (s.refusedCode 0x10 .refusedPhase) ∧
      exec .lockout s = .next (s.refusedCode 0x11 .refusedPhase) ∧
      exec .clear s = .next (s.refusedCode 0x12 .refusedPhase)) ∧
    (s.station.phase = .listen ∨ s.station.phase = .active →
      (15 < s.host.argument.toNat →
        exec .force s = .next (s.refusedCode 0x10 .refusedArg) ∧
        exec .lockout s = .next (s.refusedCode 0x11 .refusedArg) ∧
        exec .clear s = .next (s.refusedCode 0x12 .refusedArg)) ∧
      ∀ n : Service, s.host.argument.toNat = n.val → (s.planOf n).rank = 0 →
        exec .force s = .next (s.refusedCode 0x10 .refusedArg) ∧
        exec .lockout s = .next (s.refusedCode 0x11 .refusedArg)) ∧
    ∀ code : Byte,
      code ∉ [0x01, 0x02, 0x03, 0x10, 0x11, 0x12, 0x20] →
      exec (.unknownCommandCode code) s = .next (s.refusedCode code .refusedArg)

/-- An accepted FORCE, LOCKOUT or CLEAR (R79 to R84, Table 5-1), on its byte in a write transaction: the result is DONE,
the request is set, grade and class are formed anew, a change of grade is posted first, and a change of either asks for an
early STATUS (R80). LOCKOUT, and a fall from FORCE at grade FAIL, withdraw or abandon an own claim, and nothing else does
(R35, R36, R54). A request already in force changes nothing. -/
def Obligations.OperatorRequests : Prop :=
  ∀ (s : State) (n : Service) (c : Instr) (code : Byte) (request : Request),
    s.host.txn = .data .write (.at 0x0D) →
    s.station.phase = .listen ∨ s.station.phase = .active →
    s.host.argument.toNat = n.val →
    (c, code, request) ∈
      [(Instr.force, 0x10, Request.force), (Instr.lockout, 0x11, Request.lockout), (Instr.clear, 0x12, Request.none)] →
    c = .clear ∨ (s.planOf n).rank ≠ 0 →
    ∃ t, exec c s = .next t ∧
      t.host.result = .done ∧ t.host.code = code ∧ t.host.txn = .data .write .pastEnd ∧
      t.condition n =
        { s.condition n with
          request := request
          grade := formGrade (s.planOf n) (s.condition n).debounced request
          cls := formClass request } ∧
      (∀ m, m ≠ n → t.condition m = s.condition m) ∧ s.OtherEntries t n ∧
      t.timebase = s.timebase ∧ t.peers = s.peers ∧ t.station = s.station ∧ t.rx = s.rx ∧ t.pending = s.pending ∧
      t.rstLow = s.rstLow ∧
      ((t.condition n).grade ≠ (s.condition n).grade → s.CanRecord 1 →
        s.host.events ++ [s.event .gradeChanged (some n) none none (some (.grade (t.condition n).grade))] <+:
          t.host.events) ∧
      ((t.condition n).grade ≠ (s.condition n).grade ∨ (t.condition n).cls ≠ (s.condition n).cls → t.StatusWaits) ∧
      (∀ r, s.EntryAgrees n → s.BlocksAgree → (s.entry n).state = .claiming → (s.entry n).record = some r →
        (request = .lockout ∨
            (request = .none ∧ (s.condition n).cls = .force ∧ (t.condition n).grade = .fail) →
          s.Withdrawn t n r ∧
          (s.CanRecord 2 →
            t.host.events = s.host.events ++
              ((if request = .lockout then [s.event .gradeChanged (some n) none none (some (.grade .unav))] else []) ++
                [s.event .claimFailed (some n) none (some r.epoch) (some (.claimFailed .withdrawn))]))) ∧
        (request ≠ .lockout →
          request = .force ∨ (s.condition n).cls = .normal ∨ (t.condition n).grade ≠ .fail →
          t.entry n = s.entry n)) ∧
      ((s.condition n).request = request → s.BlocksAgree → s.TxConsistent →
        t = s.withHost { s.host with code := code, result := .done, txn := .data .write .pastEnd })

/-- LOCKOUT on a HELD service releases it in the same action (R53, R83): DRVn off, the entry VACANT with its epoch,
RELEASE(LOCKOUT) waiting, GRADE_CHANGED(UNAV) and then SVC_DROPPED(LOCKOUT) posted. In the other states (R54; CLAIMING is
in OperatorRequests) the station ceases to be a candidate: in ACTIVE the evaluation removes a WTR timer, and a WATCHING
entry, and every entry in LISTEN, stays as it is. -/
def Obligations.LockoutReleases : Prop :=
  ∀ (s : State) (n : Service),
    s.host.txn = .data .write (.at 0x0D) →
    s.host.argument.toNat = n.val →
    s.BlocksAgree →
    ((s.entry n).state = .held →
      s.EntryAgrees n →
      ∃ t, exec .lockout s = .next t ∧
        (t.entry n).state = .vacant ∧ (t.entry n).owner = none ∧ (t.entry n).epoch = (s.entry n).epoch ∧
        (t.entry n).record = none ∧ (t.entry n).changed = s.timebase ∧ look t.oc.drv n = false ∧ s.OtherEntries t n ∧
        t.ReleaseWaits { service := n, epoch := (s.entry n).heldEpoch, reason := .lockout } ∧ t.StatusWaits ∧
        (t.condition n).grade = .unav ∧
        (s.CanRecord 2 →
          t.host.events = s.host.events ++
            [s.event .gradeChanged (some n) none none (some (.grade .unav)),
              s.event .svcDropped (some n) none (s.entry n).epoch (some (.dropped .lockout))])) ∧
    ((s.entry n).state ≠ .held → (s.entry n).state ≠ .claiming →
      s.station.phase = .listen ∨ s.station.phase = .active →
      (s.planOf n).rank ≠ 0 →
      (s.condition n).request ≠ .lockout →
      ∃ t, exec .lockout s = .next t ∧
        (t.condition n).grade = .unav ∧ t.ownCandidate n = false ∧ t.StatusWaits ∧ s.OtherEntries t n ∧
        (s.station.phase = .active → (s.entry n).state ≠ .watching →
          t.entry n = { s.entry n with wtr := none }) ∧
        (s.station.phase = .listen ∨ (s.entry n).state = .watching → t.entry n = s.entry n) ∧
        (s.CanRecord 1 →
          t.host.events = s.host.events ++ [s.event .gradeChanged (some n) none none (some (.grade .unav))]))

/-- CLEAR_COUNTERS, on its byte in a write transaction, sets every counter to 0 and leaves everything else (R100, R128,
R146, R150). -/
def Obligations.ClearCountersClears : Prop :=
  ∀ s : State, s.host.txn = .data .write (.at 0x0D) → ∃ t, exec .clearCounters s = .next t ∧
    t.rx = { s.rx with goodFrames := 0, codeErrors := 0, crcErrors := 0, formatErrors := 0 } ∧
    t.tx = { s.tx with framesSent := 0, collisions := 0, deafAttempts := 0, giveUps := 0 } ∧
    (∀ p, t.peer p = { s.peer p with accepted := 0, lost := 0, duplicates := 0 }) ∧
    t.peers.isolated = s.peers.isolated ∧ t.peers.clashCount = 0 ∧
    t.timebase = s.timebase ∧ t.oc = s.oc ∧ t.cond = s.cond ∧ t.station = s.station ∧ t.pending = s.pending ∧
    t.rstLow = s.rstLow ∧
    t.freeCount = s.freeCount ∧
    t.host = { s.host with result := .done, code := 0x20, txn := .data .write .pastEnd }

/-- The Plan window (R85, R149, Table 11-5), each byte in a write transaction at its address: the select takes 0 to 15 in
any phase; a field is refused by phase, then by range, and otherwise takes the value, which reads back and reaches the
published grade of its service. -/
def Obligations.PlanWrites : Prop :=
  ∀ (s : State) (v : Byte),
    (s.host.txn = .data .write (.at 0x11) →
      (∀ n : Service, v.toNat = n.val →
        exec (.planSelectWrite v) s =
          .next (s.withHost { s.host with planSelect := n, result := .done, txn := .data .write (.at 0x12) })) ∧
      (15 < v.toNat → exec (.planSelectWrite v) s = .next (s.answered 0x11 .refusedArg))) ∧
    (planFieldAddr .flags = 0x12 ∧ planFieldAddr .wtr = 0x13 ∧ planFieldAddr .rank = 0x14 ∧
      planFieldAddr .holdOff = 0x15 ∧ planFieldAddr .version = 0x16 ∧ planFieldAddr .expectedPeers = 0x17) ∧
    ∀ f : PlanField,
      s.host.txn = .data .write (.at (planFieldAddr f)) →
      (s.station.phase ≠ .config →
        exec (.planFieldWrite f v) s = .next (s.answered (planFieldAddr f) .refusedPhase)) ∧
      (s.station.phase = .config →
        ((f = .wtr ∧ v = 0) ∨ (f = .rank ∧ (7 < v.toNat ∨ (v ≠ 0 ∧ (s.planOf s.host.planSelect).defined = false))) ∨
            (f = .expectedPeers ∧ 15 < v.toNat) →
          exec (.planFieldWrite f v) s = .next (s.answered (planFieldAddr f) .refusedArg)) ∧
        (¬((f = .wtr ∧ v = 0) ∨ (f = .rank ∧ (7 < v.toNat ∨ (v ≠ 0 ∧ (s.planOf s.host.planSelect).defined = false))) ∨
            (f = .expectedPeers ∧ 15 < v.toNat)) →
          ∃ t, exec (.planFieldWrite f v) s = .next t ∧
            t.host = { s.host with result := .done, txn := .data .write (nextAddress (.at (planFieldAddr f))) } ∧
            hostRead t (.at (planFieldAddr f)) = (if f = .flags then v &&& 3 else v) ∧
            (∀ g, g ≠ f → ¬(f = .flags ∧ g = .rank) →
              hostRead t (.at (planFieldAddr g)) = hostRead s (.at (planFieldAddr g))) ∧
            (f = .flags → v.getLsbD 0 = false → (t.planOf s.host.planSelect).rank = 0) ∧
            (f = .flags → v.getLsbD 0 = true →
              (t.planOf s.host.planSelect).rank = (s.planOf s.host.planSelect).rank) ∧
            (∀ m, m ≠ s.host.planSelect → t.planOf m = s.planOf m ∧ t.condition m = s.condition m) ∧
            t.condition s.host.planSelect =
              { s.condition s.host.planSelect with
                grade := formGrade (t.planOf s.host.planSelect) (s.condition s.host.planSelect).debounced
                  (s.condition s.host.planSelect).request
                cls := formClass (s.condition s.host.planSelect).request } ∧
            t.station = { s.station with plan := t.station.plan } ∧
            t.timebase = s.timebase ∧ t.oc = s.oc ∧ t.peers = s.peers ∧ t.rx = s.rx ∧ t.tx = s.tx ∧
            t.pending = s.pending ∧ t.rstLow = s.rstLow ∧ t.freeCount = s.freeCount))

/-- The snapshot selects (R151, R152), each byte in a write transaction at its address: a value of 0 to 15 copies the
whole of the named state with the select value and answers DONE, the copy laid out byte by byte as Tables 11-6, 11-8 and
11-5 give (R158), an absent field as 00h; at the own ID the Peer copy is SELF with nothing else; any other value answers
REFUSED_ARG and keeps the old copy. -/
def Obligations.SnapshotSelects : Prop :=
  let grade : Grade → Nat := fun g => match g with | .ok => 0 | .deg => 1 | .fail => 2 | .unav => 3
  let serviceByte : ServiceByte → Byte := fun b =>
    byteOf (grade b.grade * 16 + (if b.cls = .force then 8 else 0) + b.rank.val)
  let condition : Condition → Nat := fun c => match c with | .ok => 0 | .deg => 1 | .fail => 2
  ∀ (s : State) (v : Byte),
    (∀ n : Fin 16, v.toNat = n.val →
      (s.host.txn = .data .write (.at 0x18) →
        ∃ (t : State) (a : Vector Byte 18), exec (.serviceSnapshotSelect v) s = .next t ∧
        t = s.withHost
          { s.host with
            result := .done, txn := .data .write (.at 0x19), serviceSnap := { select := n, bytes := a } } ∧
        let e := s.entry n
        let c := s.condition n
        a[0] = (match e.state with
          | .vacant => 0 | .held => 1 | .remote => 2 | .orphaned => 3 | .claiming => 4 | .watching => 5) ∧
        a[1] = (match e.owner with | none => 0xFF | some p => byteOf p.val) ∧
        a[2] = e.epoch.getD 0 ∧
        (a[3].getLsbD 0 = e.epoch.isSome ∧ a[3].getLsbD 1 = e.record.isSome ∧
          (a[3].getLsbD 2 = true ↔ ∃ r p, e.record = some r ∧ r.mode = .takeover p) ∧
          (a[3].getLsbD 3 = true ↔ ∃ r w, e.record = some r ∧ r.window = some w) ∧
          a[3].getLsbD 4 = e.wtr.isSome ∧ a[3].getLsbD 5 = e.retryHold.isSome ∧ a[3].getLsbD 6 = c.timer.isSome ∧
          a[3].getLsbD 7 = look s.oc.drv n) ∧
        (e.record = none → a[4] = 0 ∧ a[5] = 0 ∧ a[6] = 0 ∧ a[7] = 0 ∧ a[8] = 0 ∧ a[9] = 0) ∧
        (∀ r, e.record = some r →
          a[4] = byteOf r.claimant.val ∧ a[5] = r.epoch ∧
          (a[6].getLsbD 0 = decide (r.mode ≠ .vacant) ∧ a[6].getLsbD 1 = decide (r.sent = some .sent) ∧
            (r.mode ≠ .vacant →
              a[6].getLsbD 2 = decide (r.listing = .listed) ∧ a[6].getLsbD 3 = decide (r.listing = .notListed)) ∧
            a[6].getLsbD 4 = r.releaseHeard ∧ a[6].toNat < 32) ∧
          a[7] = serviceByte r.claimed ∧
          a[8] = (match r.mode with | .vacant => 0 | .takeover p => byteOf p.val) ∧
          a[9] = byteOf (r.window.getD 0)) ∧
        a[10] = (match e.wtr with | none => 0 | some w => byteOf w.seconds) ∧ a[11] = byteOf (e.retryHold.getD 0) ∧
        a[12].toNat * 256 + a[13].toNat = e.changed.toNat ∧
        a[14] = byteOf (condition c.raw + 4 * condition c.debounced +
          16 * (match c.request with | .none => 0 | .force => 1 | .lockout => 2)) ∧
        a[15] = serviceByte { grade := c.grade, cls := c.cls, rank := (s.planOf n).rank } ∧
        a[16].toNat * 256 + a[17].toNat = c.timer.getD 0 % 65536) ∧
      (s.host.txn = .data .write (.at 0x4D) →
        ∃ (t : State) (a : Vector Byte 49), exec (.peerSnapshotSelect v) s = .next t ∧
        t = s.withHost
          { s.host with result := .done, txn := .data .write (.at 0x4E), peerSnap := { select := n, bytes := a } } ∧
        (n = s.station.ownId → a[0] = 5 ∧ ∀ i : Fin 48, a[i.val + 1] = 0) ∧
        (n ≠ s.station.ownId →
          let e := s.peer n
          a[0] = (match e.state with
            | .absent => 0 | .arriving => 1 | .live => 2 | .silent => 3 | .incompatible => 4 | .self => 5) ∧
          (a[1].getLsbD 0 = e.lastSeq.isSome ∧ a[1].getLsbD 1 = e.silence.isSome ∧ a[1].getLsbD 2 = e.data.isSome ∧
            a[1].getLsbD 3 = e.checksumSeen.isSome ∧ a[1].toNat < 16) ∧
          a[2] = e.lastSeq.getD 0 ∧ a[3] = byteOf (e.silence.getD 0) ∧ a[4] = byteOf e.inOrder ∧
          a[5].toNat * 256 + a[6].toNat = (e.checksumSeen.getD 0).toNat ∧
          a[7].toNat * 256 + a[8].toNat = e.accepted.toNat ∧ a[9].toNat * 256 + a[10].toNat = e.lost.toNat ∧
          a[11].toNat * 256 + a[12].toNat = e.duplicates.toNat ∧
          (e.data = none → ∀ i : Fin 36, a[i.val + 13] = 0) ∧
          ∀ b, e.data = some b →
            a[13] = (match b.phase with | .listen => 1 | .active => 2 | .leaving => 3) ∧
            a[14] = (if b.isolated = true then 1 else 0) ∧
            ∀ m : Service,
              a[m.val + 15] = serviceByte (look b.services m) ∧ a[m.val + 33] = (b.listing m).getD 0 ∧
              (m.val < 8 → a[32].getLsbD m.val = (b.listing m).isSome) ∧
              (8 ≤ m.val → a[31].getLsbD (m.val - 8) = (b.listing m).isSome))) ∧
      (s.host.txn = .data .write (.at 0x2B) →
        ∃ (t : State) (a : Vector Byte 24), exec (.counterSnapshotSelect v) s = .next t ∧
        t = s.withHost
          { s.host with result := .done, txn := .data .write (.at 0x2C), counterSnap := { select := n, bytes := a } } ∧
        (∀ i : Fin 12, a[2 * i.val].toNat * 256 + a[2 * i.val + 1].toNat =
          ([s.rx.goodFrames, s.rx.codeErrors, s.rx.crcErrors, s.rx.formatErrors, s.tx.framesSent, s.tx.collisions,
            s.tx.deafAttempts, s.tx.giveUps, s.peers.clashCount,
            if n = s.station.ownId then 0 else (s.peer n).accepted,
            if n = s.station.ownId then 0 else (s.peer n).lost,
            if n = s.station.ownId then 0 else (s.peer n).duplicates].getD i.val 0).toNat))) ∧
    (15 < v.toNat →
      (s.host.txn = .data .write (.at 0x18) →
        exec (.serviceSnapshotSelect v) s = .next (s.answered 0x18 .refusedArg)) ∧
      (s.host.txn = .data .write (.at 0x4D) →
        exec (.peerSnapshotSelect v) s = .next (s.answered 0x4D .refusedArg)) ∧
      (s.host.txn = .data .write (.at 0x2B) →
        exec (.counterSnapshotSelect v) s = .next (s.answered 0x2B .refusedArg)))

/-- A pop, a read of the pop byte in a read transaction (R147, R154, R155): the oldest record moves into the latch, and
its kind is the byte fetched; a pop that frees a slot while records were lost appends EVENTS_LOST with the count; on an
empty queue the latch takes the NONE record, whose timestamp the spec does not state (log entry 7), and the queue is not
changed. -/
def Obligations.EventPops : Prop :=
  ∀ s : State,
    s.host.txn = .data .read (.at 0x44) →
    (∀ e rest, s.host.events = e :: rest → s.host.lost = 0 →
      exec .eventPop s =
        .next
          (s.withHost
            { s.host with
              events := rest, latch := e, irq := s.host.irqEnable && !rest.isEmpty
              fetched := some (byteOf e.kind.code), txn := .data .read (.at 0x45) })) ∧
    (∀ e rest, s.host.events = e :: rest → s.host.lost ≠ 0 →
      exec .eventPop s =
        .next
          (s.withHost
            { s.host with
              events := rest ++ [s.event .eventsLost none none none (some (.count s.host.lost))], latch := e, lost := 0
              irq := s.host.irqEnable, fetched := some (byteOf e.kind.code)
              txn := .data .read (.at 0x45) })) ∧
    (s.host.events = [] →
      ∃ t, exec .eventPop s = .next t ∧
        t = { s.withHost t.host with freeCount := t.freeCount } ∧
        t.host =
          { s.host with
            latch := t.host.latch, fetched := some 0, txn := .data .read (.at 0x45) } ∧
        t.host.latch.kind = .none ∧ t.host.latch.service = none ∧ t.host.latch.peer = none ∧
        t.host.latch.epoch = none ∧ t.host.latch.detail = none)

/-- Writes that act at once (R148, R150, R155), each byte in a write transaction at its address: the IRQ enable and the
class mask, IRQ following the enable; the command argument, which does nothing else; and writes that are discarded, to a
read-only address, to the pop byte, to no window, or past the end of a window. The address moves on. -/
def Obligations.RegisterWrites : Prop :=
  ∀ (s : State) (v : Byte),
    (s.host.txn = .data .write (.at 0x0F) →
      exec (.irqControlWrite .enable v) s =
        .next
          (s.withHost
            { s.host with
              irqEnable := v.getLsbD 0, irq := v.getLsbD 0 && !s.host.events.isEmpty
              txn := .data .write (.at 0x10) })) ∧
    (s.host.txn = .data .write (.at 0x10) →
      exec (.irqControlWrite .classMask v) s =
        .next
          (s.withHost
            { s.host with
              mask :=
                { service := v.getLsbD 0, condition := v.getLsbD 1, peer := v.getLsbD 2, station := v.getLsbD 3 }
              txn := .data .write .pastEnd })) ∧
    (s.host.txn = .data .write (.at 0x0C) →
      exec (.registerWrite (.at 0x0C) v) s =
        .next (s.withHost { s.host with argument := v, txn := .data .write (.at 0x0D) })) ∧
    (∀ a : BitVec 7,
      a.toNat ∉ [0x0C, 0x0D, 0x0F, 0x10, 0x11, 0x12, 0x13, 0x14, 0x15, 0x16, 0x17, 0x18, 0x2B, 0x4D] →
      s.host.txn = .data .write (.at a) →
      exec (.registerWrite (.at a) v) s =
        .next (s.withHost { s.host with txn := .data .write (nextAddress (.at a)) })) ∧
    (s.host.txn = .data .write (.at 0x44) →
      exec .eventPop s = .next (s.withHost { s.host with txn := .data .write (.at 0x45) })) ∧
    (s.host.txn = .data .write .pastEnd → exec (.registerWrite .pastEnd v) s = .next s)

/-- A transaction (R147, R148, R156, R158): HSEL low begins one from IDLE, but not while RST is low; the address byte
gives direction and address; HSEL high ends it whatever its state; the address moves on by one within a window and stays
past its end. While HSEL is high the clock is ignored: a data byte changes nothing in IDLE, and neither does one in
ADDRESS or for an address that is not the current one, which the state does not await (the model's choice, log entry 1). -/
def Obligations.Transactions : Prop :=
  (∀ s : State,
    (s.host.txn = .idle → s.rstLow = false →
      exec .transactionBegin s = .next (s.withHost { s.host with txn := .address, fetched := none })) ∧
    (s.host.txn ≠ .idle ∨ s.rstLow = true → exec .transactionBegin s = .next s) ∧
    (∀ v : Byte,
      (s.host.txn = .address →
        exec (.addressByte v) s =
          .next
            (s.withHost
              { s.host with
                txn := .data (if v.getLsbD 7 = true then .read else .write) (.at (BitVec.ofNat 7 (v.toNat % 128))) })) ∧
      (s.host.txn ≠ .address → exec (.addressByte v) s = .next s)) ∧
    (∀ c a, hostAddress c = some a → (∀ dir, s.host.txn ≠ .data dir a) → exec c s = .next s) ∧
    exec .transactionEnd s = .next (s.withHost { s.host with txn := .idle, fetched := none })) ∧
  nextAddress .pastEnd = .pastEnd ∧
  ∀ a : BitVec 7,
    nextAddress (.at a) =
      if a.toNat ∈ [0x02, 0x0B, 0x0D, 0x0E, 0x10, 0x17, 0x2A, 0x43, 0x4C, 0x7E, 0x7F] then .pastEnd
      else .at (BitVec.ofNat 7 (a.toNat + 1))

/-- Reads (R148, R158, Tables 11-5, 11-7, 11-9 and 11-10): every byte of the host window map at its address, an absent
field as 00h, and 00h past the end of a window and at 7Fh. The byte of a data row in a read transaction at its address is
fetched, and the address moves on (R147; that the rows of writes stand for reads too is the model's choice, log entry 10);
at the pop byte the fetch is EVENT_POP. -/
def Obligations.HostReads : Prop :=
  (∀ s : State,
    hostRead s (.at 0x00) = 0x6B ∧ hostRead s (.at 0x01) = 0x16 ∧ hostRead s (.at 0x02) = 0x01 ∧
    hostRead s (.at 0x03) = (match s.station.phase with
      | .config => 0 | .listen => 1 | .active => 2 | .leaving => 3 | .detached => 4 | .muted => 5) ∧
    hostRead s (.at 0x04) = (if s.peers.isolated = true then 1 else 0) ∧
    (hostRead s (.at 0x05)).toNat = s.station.ownId.val ∧ (hostRead s (.at 0x06)).toNat = s.livePeers ∧
    s.livePeers = ((List.finRange 16).filter fun p => decide ((s.peer p).state = .live)).length ∧
    (hostRead s (.at 0x07)).toNat * 256 + (hostRead s (.at 0x08)).toNat = s.station.checksum.toNat ∧
    (s.tx.deafCount ≤ 3 → (hostRead s (.at 0x09)).toNat = s.tx.deafCount) ∧
    (s.host.events.length ≤ 32 → (hostRead s (.at 0x0A)).toNat = s.host.events.length) ∧
    hostRead s (.at 0x0B) = s.host.lost ∧ hostRead s (.at 0x0C) = s.host.argument ∧
    hostRead s (.at 0x0D) = s.host.code ∧
    hostRead s (.at 0x0E) = (match s.host.result with | .done => 0 | .refusedPhase => 1 | .refusedArg => 2) ∧
    hostRead s (.at 0x0F) = (if s.host.irqEnable = true then 1 else 0) ∧
    ((hostRead s (.at 0x10)).getLsbD 0 = s.host.mask.service ∧
      (hostRead s (.at 0x10)).getLsbD 1 = s.host.mask.condition ∧
      (hostRead s (.at 0x10)).getLsbD 2 = s.host.mask.peer ∧ (hostRead s (.at 0x10)).getLsbD 3 = s.host.mask.station ∧
      (hostRead s (.at 0x10)).toNat < 16) ∧
    (hostRead s (.at 0x11)).toNat = s.host.planSelect.val ∧
    ((hostRead s (.at 0x12)).getLsbD 0 = (s.planOf s.host.planSelect).defined ∧
      (hostRead s (.at 0x12)).getLsbD 1 = (s.planOf s.host.planSelect).revertive ∧
      (hostRead s (.at 0x12)).toNat < 4) ∧
    hostRead s (.at 0x13) = (s.planOf s.host.planSelect).wtr ∧
    (hostRead s (.at 0x14)).toNat = (s.planOf s.host.planSelect).rank.val ∧
    hostRead s (.at 0x15) = (s.planOf s.host.planSelect).holdOff ∧
    hostRead s (.at 0x16) = s.station.plan.version ∧
    (hostRead s (.at 0x17)).toNat = s.station.plan.expectedPeers.val ∧
    (hostRead s (.at 0x18)).toNat = s.host.serviceSnap.select.val ∧
    (hostRead s (.at 0x2B)).toNat = s.host.counterSnap.select.val ∧
    (hostRead s (.at 0x4D)).toNat = s.host.peerSnap.select.val ∧
    (∀ i : Fin 18, hostRead s (.at (BitVec.ofNat 7 (0x19 + i.val))) = s.host.serviceSnap.bytes[i]) ∧
    (∀ i : Fin 24, hostRead s (.at (BitVec.ofNat 7 (0x2C + i.val))) = s.host.counterSnap.bytes[i]) ∧
    (∀ i : Fin 49, hostRead s (.at (BitVec.ofNat 7 (0x4E + i.val))) = s.host.peerSnap.bytes[i]) ∧
    hostRead s (.at 0x44) = byteOf ((s.host.events.head?.map fun (e : EventRecord) => e.kind).getD EventKind.none).code ∧
    hostRead s (.at 0x45) = byteOf s.host.latch.kind.code ∧
    ((hostRead s (.at 0x46)).getLsbD 0 = s.host.latch.service.isSome ∧
      (hostRead s (.at 0x46)).getLsbD 1 = s.host.latch.peer.isSome ∧
      (hostRead s (.at 0x46)).getLsbD 2 = s.host.latch.epoch.isSome ∧
      (hostRead s (.at 0x46)).getLsbD 3 = s.host.latch.detail.isSome ∧ (hostRead s (.at 0x46)).toNat < 16) ∧
    (hostRead s (.at 0x47)).toNat * 256 + (hostRead s (.at 0x48)).toNat = s.host.latch.timestamp.toNat ∧
    (hostRead s (.at 0x49)).toNat = (s.host.latch.service.map fun n => n.val).getD 0 ∧
    (hostRead s (.at 0x4A)).toNat = (s.host.latch.peer.map fun p => p.val).getD 0 ∧
    hostRead s (.at 0x4B) = s.host.latch.epoch.getD 0 ∧
    hostRead s (.at 0x4C) = (s.host.latch.detail.map Detail.code).getD 0 ∧
    hostRead s (.at 0x7F) = 0 ∧ hostRead s .pastEnd = 0 ∧
    (∀ c a, hostAddress c = some a → s.host.txn = .data .read a →
      (a ≠ .at 0x44 →
        exec c s =
          .next (s.withHost { s.host with fetched := some (hostRead s a), txn := .data .read (nextAddress a) })) ∧
      (a = .at 0x44 → exec c s = exec .eventPop s))) ∧
  (∀ x ∈
    ([(.none, 0x00), (.svcHeld, 0x01), (.svcDropped, 0x02), (.ownerChanged, 0x03), (.claimFailed, 0x04),
      (.dualHold, 0x05), (.gradeChanged, 0x10), (.peerLive, 0x20), (.peerSilent, 0x21), (.peerLeft, 0x22),
      (.peerIncompatible, 0x23), (.idClash, 0x24), (.phaseChanged, 0x30), (.isolated, 0x31), (.rejoined, 0x32),
      (.txGiveUp, 0x33), (.muted, 0x34), (.eventsLost, 0x7F)] : List (EventKind × Nat)), x.1.code = x.2) ∧
  (∀ x ∈
    ([(.vacantMode, 0), (.takeoverMode, 1), (.dropped .handover, 1), (.dropped .lockout, 2), (.dropped .leave, 3),
      (.dropped .muted, 4), (.dropped .superseded, 5), (.claimFailed .timeout, 1), (.claimFailed .beaten, 2),
      (.claimFailed .giveUp, 3), (.claimFailed .withdrawn, 4), (.claimFailed (.objected .ownerLive), 0x11),
      (.claimFailed (.objected .forceHeld), 0x12), (.claimFailed (.objected .notBetter), 0x13),
      (.claimFailed (.objected .staleEpoch), 0x14), (.dualHold .epoch, 1), (.dualHold .tuple, 2), (.grade .ok, 0),
      (.grade .deg, 1), (.grade .fail, 2), (.grade .unav, 3), (.phase .config, 0), (.phase .listen, 1),
      (.phase .active, 2), (.phase .leaving, 3), (.phase .detached, 4), (.phase .muted, 5), (.rejoinedByPeer, 0),
      (.frame .status, 4), (.frame .claim, 2), (.frame .release, 6), (.frame .object, 7), (.muted .deaf, 1),
      (.muted .idClash, 2)] : List (Detail × Byte)), x.1.code = x.2) ∧
  ∀ n : Byte, Detail.code (.count n) = n

end
end

