-- ==== Sys2Proof/Laws/State.lean ====
section
/-! SUPPORT. One lemma for each field and each update of the state, so that no later proof unfolds a record update. -/

namespace Sys2Proof.Machine

/-! ## `withPeers` -/

@[simp] theorem withPeers_timebase (s : State) (x : PeerMonitor) : (s.withPeers x).timebase = s.timebase := rfl
@[simp] theorem withPeers_rstLow (s : State) (x : PeerMonitor) : (s.withPeers x).rstLow = s.rstLow := rfl
@[simp] theorem withPeers_oc (s : State) (x : PeerMonitor) : (s.withPeers x).oc = s.oc := rfl
@[simp] theorem withPeers_cond (s : State) (x : PeerMonitor) : (s.withPeers x).cond = s.cond := rfl
@[simp] theorem withPeers_peers (s : State) (x : PeerMonitor) : (s.withPeers x).peers = x := rfl
@[simp] theorem withPeers_station (s : State) (x : PeerMonitor) : (s.withPeers x).station = s.station := rfl
@[simp] theorem withPeers_rx (s : State) (x : PeerMonitor) : (s.withPeers x).rx = s.rx := rfl
@[simp] theorem withPeers_tx (s : State) (x : PeerMonitor) : (s.withPeers x).tx = s.tx := rfl
@[simp] theorem withPeers_host (s : State) (x : PeerMonitor) : (s.withPeers x).host = s.host := rfl
@[simp] theorem withPeers_pending (s : State) (x : PeerMonitor) : (s.withPeers x).pending = s.pending := rfl
@[simp] theorem withPeers_freeCount (s : State) (x : PeerMonitor) : (s.withPeers x).freeCount = s.freeCount := rfl

/-! ## `withStation` -/

@[simp] theorem withStation_timebase (s : State) (x : StationController) :
    (s.withStation x).timebase = s.timebase := rfl
@[simp] theorem withStation_rstLow (s : State) (x : StationController) : (s.withStation x).rstLow = s.rstLow := rfl
@[simp] theorem withStation_oc (s : State) (x : StationController) : (s.withStation x).oc = s.oc := rfl
@[simp] theorem withStation_cond (s : State) (x : StationController) : (s.withStation x).cond = s.cond := rfl
@[simp] theorem withStation_peers (s : State) (x : StationController) : (s.withStation x).peers = s.peers := rfl
@[simp] theorem withStation_station (s : State) (x : StationController) : (s.withStation x).station = x := rfl
@[simp] theorem withStation_rx (s : State) (x : StationController) : (s.withStation x).rx = s.rx := rfl
@[simp] theorem withStation_tx (s : State) (x : StationController) : (s.withStation x).tx = s.tx := rfl
@[simp] theorem withStation_host (s : State) (x : StationController) : (s.withStation x).host = s.host := rfl
@[simp] theorem withStation_pending (s : State) (x : StationController) : (s.withStation x).pending = s.pending := rfl
@[simp] theorem withStation_freeCount (s : State) (x : StationController) :
    (s.withStation x).freeCount = s.freeCount := rfl

/-! ## `withRx` -/

@[simp] theorem withRx_timebase (s : State) (x : Receiver) : (s.withRx x).timebase = s.timebase := rfl
@[simp] theorem withRx_rstLow (s : State) (x : Receiver) : (s.withRx x).rstLow = s.rstLow := rfl
@[simp] theorem withRx_oc (s : State) (x : Receiver) : (s.withRx x).oc = s.oc := rfl
@[simp] theorem withRx_cond (s : State) (x : Receiver) : (s.withRx x).cond = s.cond := rfl
@[simp] theorem withRx_peers (s : State) (x : Receiver) : (s.withRx x).peers = s.peers := rfl
@[simp] theorem withRx_station (s : State) (x : Receiver) : (s.withRx x).station = s.station := rfl
@[simp] theorem withRx_rx (s : State) (x : Receiver) : (s.withRx x).rx = x := rfl
@[simp] theorem withRx_tx (s : State) (x : Receiver) : (s.withRx x).tx = s.tx := rfl
@[simp] theorem withRx_host (s : State) (x : Receiver) : (s.withRx x).host = s.host := rfl
@[simp] theorem withRx_pending (s : State) (x : Receiver) : (s.withRx x).pending = s.pending := rfl
@[simp] theorem withRx_freeCount (s : State) (x : Receiver) : (s.withRx x).freeCount = s.freeCount := rfl

/-! ## `withTx` -/

@[simp] theorem withTx_timebase (s : State) (x : Transmitter) : (s.withTx x).timebase = s.timebase := rfl
@[simp] theorem withTx_rstLow (s : State) (x : Transmitter) : (s.withTx x).rstLow = s.rstLow := rfl
@[simp] theorem withTx_oc (s : State) (x : Transmitter) : (s.withTx x).oc = s.oc := rfl
@[simp] theorem withTx_cond (s : State) (x : Transmitter) : (s.withTx x).cond = s.cond := rfl
@[simp] theorem withTx_peers (s : State) (x : Transmitter) : (s.withTx x).peers = s.peers := rfl
@[simp] theorem withTx_station (s : State) (x : Transmitter) : (s.withTx x).station = s.station := rfl
@[simp] theorem withTx_rx (s : State) (x : Transmitter) : (s.withTx x).rx = s.rx := rfl
@[simp] theorem withTx_tx (s : State) (x : Transmitter) : (s.withTx x).tx = x := rfl
@[simp] theorem withTx_host (s : State) (x : Transmitter) : (s.withTx x).host = s.host := rfl
@[simp] theorem withTx_pending (s : State) (x : Transmitter) : (s.withTx x).pending = s.pending := rfl
@[simp] theorem withTx_freeCount (s : State) (x : Transmitter) : (s.withTx x).freeCount = s.freeCount := rfl

/-! ## `withHost` -/

@[simp] theorem withHost_timebase (s : State) (x : HostPort) : (s.withHost x).timebase = s.timebase := rfl
@[simp] theorem withHost_rstLow (s : State) (x : HostPort) : (s.withHost x).rstLow = s.rstLow := rfl
@[simp] theorem withHost_oc (s : State) (x : HostPort) : (s.withHost x).oc = s.oc := rfl
@[simp] theorem withHost_cond (s : State) (x : HostPort) : (s.withHost x).cond = s.cond := rfl
@[simp] theorem withHost_peers (s : State) (x : HostPort) : (s.withHost x).peers = s.peers := rfl
@[simp] theorem withHost_station (s : State) (x : HostPort) : (s.withHost x).station = s.station := rfl
@[simp] theorem withHost_rx (s : State) (x : HostPort) : (s.withHost x).rx = s.rx := rfl
@[simp] theorem withHost_tx (s : State) (x : HostPort) : (s.withHost x).tx = s.tx := rfl
@[simp] theorem withHost_host (s : State) (x : HostPort) : (s.withHost x).host = x := rfl
@[simp] theorem withHost_pending (s : State) (x : HostPort) : (s.withHost x).pending = s.pending := rfl
@[simp] theorem withHost_freeCount (s : State) (x : HostPort) : (s.withHost x).freeCount = s.freeCount := rfl

/-! ## `withPending` -/

@[simp] theorem withPending_timebase (s : State) (cs : List Instr) : (s.withPending cs).timebase = s.timebase := rfl
@[simp] theorem withPending_rstLow (s : State) (cs : List Instr) : (s.withPending cs).rstLow = s.rstLow := rfl
@[simp] theorem withPending_oc (s : State) (cs : List Instr) : (s.withPending cs).oc = s.oc := rfl
@[simp] theorem withPending_cond (s : State) (cs : List Instr) : (s.withPending cs).cond = s.cond := rfl
@[simp] theorem withPending_peers (s : State) (cs : List Instr) : (s.withPending cs).peers = s.peers := rfl
@[simp] theorem withPending_station (s : State) (cs : List Instr) : (s.withPending cs).station = s.station := rfl
@[simp] theorem withPending_rx (s : State) (cs : List Instr) : (s.withPending cs).rx = s.rx := rfl
@[simp] theorem withPending_tx (s : State) (cs : List Instr) : (s.withPending cs).tx = s.tx := rfl
@[simp] theorem withPending_host (s : State) (cs : List Instr) : (s.withPending cs).host = s.host := rfl
@[simp] theorem withPending_freeCount (s : State) (cs : List Instr) : (s.withPending cs).freeCount = s.freeCount := rfl

/-! ## `post` -/

@[simp] theorem post_timebase (k : EventKind) (n : Option Service) (p : Option StationId) (e : Option Epoch) (d : Option Detail) (s : State) :
    (post k n p e d s).timebase = s.timebase := rfl
@[simp] theorem post_rstLow (k : EventKind) (n : Option Service) (p : Option StationId) (e : Option Epoch) (d : Option Detail) (s : State) :
    (post k n p e d s).rstLow = s.rstLow := rfl
@[simp] theorem post_oc (k : EventKind) (n : Option Service) (p : Option StationId) (e : Option Epoch) (d : Option Detail) (s : State) :
    (post k n p e d s).oc = s.oc := rfl
@[simp] theorem post_cond (k : EventKind) (n : Option Service) (p : Option StationId) (e : Option Epoch) (d : Option Detail) (s : State) :
    (post k n p e d s).cond = s.cond := rfl
@[simp] theorem post_peers (k : EventKind) (n : Option Service) (p : Option StationId) (e : Option Epoch) (d : Option Detail) (s : State) :
    (post k n p e d s).peers = s.peers := rfl
@[simp] theorem post_station (k : EventKind) (n : Option Service) (p : Option StationId) (e : Option Epoch) (d : Option Detail) (s : State) :
    (post k n p e d s).station = s.station := rfl
@[simp] theorem post_rx (k : EventKind) (n : Option Service) (p : Option StationId) (e : Option Epoch) (d : Option Detail) (s : State) :
    (post k n p e d s).rx = s.rx := rfl
@[simp] theorem post_tx (k : EventKind) (n : Option Service) (p : Option StationId) (e : Option Epoch) (d : Option Detail) (s : State) :
    (post k n p e d s).tx = s.tx := rfl
@[simp] theorem post_pending (k : EventKind) (n : Option Service) (p : Option StationId) (e : Option Epoch) (d : Option Detail) (s : State) :
    (post k n p e d s).pending = s.pending := rfl
@[simp] theorem post_freeCount (k : EventKind) (n : Option Service) (p : Option StationId) (e : Option Epoch) (d : Option Detail) (s : State) :
    (post k n p e d s).freeCount = s.freeCount := rfl

/-! ## `putEntry` -/

@[simp] theorem putEntry_timebase (n : Service) (e : ServiceEntry) (s : State) :
    (putEntry n e s).timebase = s.timebase := rfl
@[simp] theorem putEntry_rstLow (n : Service) (e : ServiceEntry) (s : State) : (putEntry n e s).rstLow = s.rstLow := rfl
@[simp] theorem putEntry_cond (n : Service) (e : ServiceEntry) (s : State) : (putEntry n e s).cond = s.cond := rfl
@[simp] theorem putEntry_peers (n : Service) (e : ServiceEntry) (s : State) : (putEntry n e s).peers = s.peers := rfl
@[simp] theorem putEntry_station (n : Service) (e : ServiceEntry) (s : State) :
    (putEntry n e s).station = s.station := rfl
@[simp] theorem putEntry_rx (n : Service) (e : ServiceEntry) (s : State) : (putEntry n e s).rx = s.rx := rfl
@[simp] theorem putEntry_tx (n : Service) (e : ServiceEntry) (s : State) : (putEntry n e s).tx = s.tx := rfl
@[simp] theorem putEntry_host (n : Service) (e : ServiceEntry) (s : State) : (putEntry n e s).host = s.host := rfl
@[simp] theorem putEntry_pending (n : Service) (e : ServiceEntry) (s : State) :
    (putEntry n e s).pending = s.pending := rfl
@[simp] theorem putEntry_freeCount (n : Service) (e : ServiceEntry) (s : State) :
    (putEntry n e s).freeCount = s.freeCount := rfl

/-! ## `putPeer` -/

@[simp] theorem putPeer_timebase (p : StationId) (e : PeerEntry) (s : State) :
    (putPeer p e s).timebase = s.timebase := rfl
@[simp] theorem putPeer_rstLow (p : StationId) (e : PeerEntry) (s : State) : (putPeer p e s).rstLow = s.rstLow := rfl
@[simp] theorem putPeer_oc (p : StationId) (e : PeerEntry) (s : State) : (putPeer p e s).oc = s.oc := rfl
@[simp] theorem putPeer_cond (p : StationId) (e : PeerEntry) (s : State) : (putPeer p e s).cond = s.cond := rfl
@[simp] theorem putPeer_station (p : StationId) (e : PeerEntry) (s : State) : (putPeer p e s).station = s.station := rfl
@[simp] theorem putPeer_rx (p : StationId) (e : PeerEntry) (s : State) : (putPeer p e s).rx = s.rx := rfl
@[simp] theorem putPeer_tx (p : StationId) (e : PeerEntry) (s : State) : (putPeer p e s).tx = s.tx := rfl
@[simp] theorem putPeer_host (p : StationId) (e : PeerEntry) (s : State) : (putPeer p e s).host = s.host := rfl
@[simp] theorem putPeer_pending (p : StationId) (e : PeerEntry) (s : State) : (putPeer p e s).pending = s.pending := rfl
@[simp] theorem putPeer_freeCount (p : StationId) (e : PeerEntry) (s : State) :
    (putPeer p e s).freeCount = s.freeCount := rfl

/-! ## `putCondition` -/

@[simp] theorem putCondition_timebase (n : Service) (c : ServiceCondition) (s : State) :
    (putCondition n c s).timebase = s.timebase := rfl
@[simp] theorem putCondition_rstLow (n : Service) (c : ServiceCondition) (s : State) :
    (putCondition n c s).rstLow = s.rstLow := rfl
@[simp] theorem putCondition_oc (n : Service) (c : ServiceCondition) (s : State) : (putCondition n c s).oc = s.oc := rfl
@[simp] theorem putCondition_peers (n : Service) (c : ServiceCondition) (s : State) :
    (putCondition n c s).peers = s.peers := rfl
@[simp] theorem putCondition_station (n : Service) (c : ServiceCondition) (s : State) :
    (putCondition n c s).station = s.station := rfl
@[simp] theorem putCondition_rx (n : Service) (c : ServiceCondition) (s : State) : (putCondition n c s).rx = s.rx := rfl
@[simp] theorem putCondition_tx (n : Service) (c : ServiceCondition) (s : State) : (putCondition n c s).tx = s.tx := rfl
@[simp] theorem putCondition_host (n : Service) (c : ServiceCondition) (s : State) :
    (putCondition n c s).host = s.host := rfl
@[simp] theorem putCondition_pending (n : Service) (c : ServiceCondition) (s : State) :
    (putCondition n c s).pending = s.pending := rfl
@[simp] theorem putCondition_freeCount (n : Service) (c : ServiceCondition) (s : State) :
    (putCondition n c s).freeCount = s.freeCount := rfl

/-! ## `setPhase` -/

@[simp] theorem setPhase_timebase (p : Phase) (s : State) : (setPhase p s).timebase = s.timebase := rfl
@[simp] theorem setPhase_rstLow (p : Phase) (s : State) : (setPhase p s).rstLow = s.rstLow := rfl
@[simp] theorem setPhase_oc (p : Phase) (s : State) : (setPhase p s).oc = s.oc := rfl
@[simp] theorem setPhase_cond (p : Phase) (s : State) : (setPhase p s).cond = s.cond := rfl
@[simp] theorem setPhase_peers (p : Phase) (s : State) : (setPhase p s).peers = s.peers := rfl
@[simp] theorem setPhase_rx (p : Phase) (s : State) : (setPhase p s).rx = s.rx := rfl
@[simp] theorem setPhase_tx (p : Phase) (s : State) : (setPhase p s).tx = s.tx := rfl
@[simp] theorem setPhase_host (p : Phase) (s : State) : (setPhase p s).host = s.host := rfl
@[simp] theorem setPhase_pending (p : Phase) (s : State) : (setPhase p s).pending = s.pending := rfl
@[simp] theorem setPhase_freeCount (p : Phase) (s : State) : (setPhase p s).freeCount = s.freeCount := rfl

/-! ## `setResult` -/

@[simp] theorem setResult_timebase (r : CommandResult) (s : State) : (setResult r s).timebase = s.timebase := rfl
@[simp] theorem setResult_rstLow (r : CommandResult) (s : State) : (setResult r s).rstLow = s.rstLow := rfl
@[simp] theorem setResult_oc (r : CommandResult) (s : State) : (setResult r s).oc = s.oc := rfl
@[simp] theorem setResult_cond (r : CommandResult) (s : State) : (setResult r s).cond = s.cond := rfl
@[simp] theorem setResult_peers (r : CommandResult) (s : State) : (setResult r s).peers = s.peers := rfl
@[simp] theorem setResult_station (r : CommandResult) (s : State) : (setResult r s).station = s.station := rfl
@[simp] theorem setResult_rx (r : CommandResult) (s : State) : (setResult r s).rx = s.rx := rfl
@[simp] theorem setResult_tx (r : CommandResult) (s : State) : (setResult r s).tx = s.tx := rfl
@[simp] theorem setResult_pending (r : CommandResult) (s : State) : (setResult r s).pending = s.pending := rfl
@[simp] theorem setResult_freeCount (r : CommandResult) (s : State) : (setResult r s).freeCount = s.freeCount := rfl

/-! ## `stopTimers` -/

@[simp] theorem stopTimers_timebase (s : State) : (stopTimers s).timebase = s.timebase := rfl
@[simp] theorem stopTimers_rstLow (s : State) : (stopTimers s).rstLow = s.rstLow := rfl
@[simp] theorem stopTimers_oc (s : State) : (stopTimers s).oc = s.oc := rfl
@[simp] theorem stopTimers_cond (s : State) : (stopTimers s).cond = s.cond := rfl
@[simp] theorem stopTimers_peers (s : State) : (stopTimers s).peers = s.peers := rfl
@[simp] theorem stopTimers_rx (s : State) : (stopTimers s).rx = s.rx := rfl
@[simp] theorem stopTimers_tx (s : State) : (stopTimers s).tx = s.tx := rfl
@[simp] theorem stopTimers_host (s : State) : (stopTimers s).host = s.host := rfl
@[simp] theorem stopTimers_pending (s : State) : (stopTimers s).pending = s.pending := rfl
@[simp] theorem stopTimers_freeCount (s : State) : (stopTimers s).freeCount = s.freeCount := rfl

/-! ## `backOff` -/

@[simp] theorem backOff_timebase (k : Nat) (s : State) : (backOff k s).timebase = s.timebase := rfl
@[simp] theorem backOff_rstLow (k : Nat) (s : State) : (backOff k s).rstLow = s.rstLow := rfl
@[simp] theorem backOff_oc (k : Nat) (s : State) : (backOff k s).oc = s.oc := rfl
@[simp] theorem backOff_cond (k : Nat) (s : State) : (backOff k s).cond = s.cond := rfl
@[simp] theorem backOff_peers (k : Nat) (s : State) : (backOff k s).peers = s.peers := rfl
@[simp] theorem backOff_station (k : Nat) (s : State) : (backOff k s).station = s.station := rfl
@[simp] theorem backOff_rx (k : Nat) (s : State) : (backOff k s).rx = s.rx := rfl
@[simp] theorem backOff_host (k : Nat) (s : State) : (backOff k s).host = s.host := rfl
@[simp] theorem backOff_pending (k : Nat) (s : State) : (backOff k s).pending = s.pending := rfl
@[simp] theorem backOff_freeCount (k : Nat) (s : State) : (backOff k s).freeCount = s.freeCount := rfl

/-! ## `dropMuted` -/

@[simp] theorem dropMuted_timebase (s : State) : (dropMuted s).timebase = s.timebase := rfl
@[simp] theorem dropMuted_rstLow (s : State) : (dropMuted s).rstLow = s.rstLow := rfl
@[simp] theorem dropMuted_oc (s : State) : (dropMuted s).oc = s.oc := rfl
@[simp] theorem dropMuted_cond (s : State) : (dropMuted s).cond = s.cond := rfl
@[simp] theorem dropMuted_peers (s : State) : (dropMuted s).peers = s.peers := rfl
@[simp] theorem dropMuted_station (s : State) : (dropMuted s).station = s.station := rfl
@[simp] theorem dropMuted_rx (s : State) : (dropMuted s).rx = s.rx := rfl
@[simp] theorem dropMuted_host (s : State) : (dropMuted s).host = s.host := rfl
@[simp] theorem dropMuted_pending (s : State) : (dropMuted s).pending = s.pending := rfl
@[simp] theorem dropMuted_freeCount (s : State) : (dropMuted s).freeCount = s.freeCount := rfl

/-! ## `storeCode` -/

@[simp] theorem storeCode_timebase (c : Byte) (s : State) : (storeCode c s).timebase = s.timebase := rfl
@[simp] theorem storeCode_rstLow (c : Byte) (s : State) : (storeCode c s).rstLow = s.rstLow := rfl
@[simp] theorem storeCode_oc (c : Byte) (s : State) : (storeCode c s).oc = s.oc := rfl
@[simp] theorem storeCode_cond (c : Byte) (s : State) : (storeCode c s).cond = s.cond := rfl
@[simp] theorem storeCode_peers (c : Byte) (s : State) : (storeCode c s).peers = s.peers := rfl
@[simp] theorem storeCode_station (c : Byte) (s : State) : (storeCode c s).station = s.station := rfl
@[simp] theorem storeCode_rx (c : Byte) (s : State) : (storeCode c s).rx = s.rx := rfl
@[simp] theorem storeCode_tx (c : Byte) (s : State) : (storeCode c s).tx = s.tx := rfl
@[simp] theorem storeCode_pending (c : Byte) (s : State) : (storeCode c s).pending = s.pending := rfl
@[simp] theorem storeCode_freeCount (c : Byte) (s : State) : (storeCode c s).freeCount = s.freeCount := rfl

/-! ## What each update writes -/

@[simp] theorem withPending_pending (s : State) (cs : List Instr) : (s.withPending cs).pending = cs := rfl

@[simp] theorem setPhase_phase (p : Phase) (s : State) : (setPhase p s).station.phase = p := rfl

@[simp] theorem setPhase_plan (p : Phase) (s : State) : (setPhase p s).station.plan = s.station.plan := rfl

@[simp] theorem setPhase_checksum (p : Phase) (s : State) : (setPhase p s).station.checksum = s.station.checksum := rfl

@[simp] theorem setPhase_ownId (p : Phase) (s : State) : (setPhase p s).station.ownId = s.station.ownId := rfl

@[simp] theorem stopTimers_phase (s : State) : (stopTimers s).station.phase = s.station.phase := rfl

@[simp] theorem stopTimers_plan (s : State) : (stopTimers s).station.plan = s.station.plan := rfl

@[simp] theorem stopTimers_ownId (s : State) : (stopTimers s).station.ownId = s.station.ownId := rfl

@[simp] theorem stopTimers_listen (s : State) : (stopTimers s).station.listenTimer = none := rfl

@[simp] theorem stopTimers_status (s : State) : (stopTimers s).station.statusTimer = none := rfl

@[simp] theorem setResult_result (r : CommandResult) (s : State) : (setResult r s).host.result = r := rfl

@[simp] theorem setResult_events (r : CommandResult) (s : State) : (setResult r s).host.events = s.host.events := rfl

@[simp] theorem post_host (k : EventKind) (n : Option Service) (p : Option StationId) (e : Option Epoch)
    (d : Option Detail) (s : State) :
    (post k n p e d s).host =
      s.host.post { kind := k, timestamp := s.timebase, service := n, peer := p, epoch := e, detail := d } := rfl

@[simp] theorem putPeer_isolated (p : StationId) (e : PeerEntry) (s : State) :
    (putPeer p e s).peers.isolated = s.peers.isolated := rfl

@[simp] theorem putPeer_clashCount (p : StationId) (e : PeerEntry) (s : State) :
    (putPeer p e s).peers.clashCount = s.peers.clashCount := rfl

/-! ## Reading a table after an update -/

@[simp] theorem putEntry_entry_same (n : Service) (e : ServiceEntry) (s : State) :
    (putEntry n e s).entry n = stamp s.timebase (s.entry n) e := by
  simp [putEntry, State.entry]

theorem putEntry_entry_ne {n m : Service} (e : ServiceEntry) (s : State) (h : m ≠ n) :
    (putEntry n e s).entry m = s.entry m := by
  simp [putEntry, State.entry, look_place_ne _ _ h]

theorem putEntry_entry (n m : Service) (e : ServiceEntry) (s : State) :
    (putEntry n e s).entry m = if m = n then stamp s.timebase (s.entry n) e else s.entry m := by
  split
  · next h => subst h; exact putEntry_entry_same ..
  · next h => exact putEntry_entry_ne _ _ h

@[simp] theorem putEntry_drv_same (n : Service) (e : ServiceEntry) (s : State) :
    look (putEntry n e s).oc.drv n = decide (e.state = .held) := by
  simp [putEntry]

theorem putEntry_drv_ne {n m : Service} (e : ServiceEntry) (s : State) (h : m ≠ n) :
    look (putEntry n e s).oc.drv m = look s.oc.drv m := by
  simp [putEntry, look_place_ne _ _ h]

@[simp] theorem putPeer_peer_same (p : StationId) (e : PeerEntry) (s : State) : (putPeer p e s).peer p = e := by
  simp [putPeer, State.peer]

theorem putPeer_peer_ne {p q : StationId} (e : PeerEntry) (s : State) (h : q ≠ p) :
    (putPeer p e s).peer q = s.peer q := by
  simp [putPeer, State.peer, look_place_ne _ _ h]

@[simp] theorem putCondition_condition_same (n : Service) (c : ServiceCondition) (s : State) :
    (putCondition n c s).condition n = c := by
  simp [putCondition, State.condition]

theorem putCondition_condition_ne {n m : Service} (c : ServiceCondition) (s : State) (h : m ≠ n) :
    (putCondition n c s).condition m = s.condition m := by
  simp [putCondition, State.condition, look_place_ne _ _ h]

/-! ## The timestamp of a changed entry (R4) -/

@[simp] theorem stamp_state (now : Word16) (a b : ServiceEntry) : (stamp now a b).state = b.state := by
  unfold stamp; split <;> rfl

@[simp] theorem stamp_owner (now : Word16) (a b : ServiceEntry) : (stamp now a b).owner = b.owner := by
  unfold stamp; split <;> rfl

@[simp] theorem stamp_epoch (now : Word16) (a b : ServiceEntry) : (stamp now a b).epoch = b.epoch := by
  unfold stamp; split <;> rfl

@[simp] theorem stamp_record (now : Word16) (a b : ServiceEntry) : (stamp now a b).record = b.record := by
  unfold stamp; split <;> rfl

@[simp] theorem stamp_wtr (now : Word16) (a b : ServiceEntry) : (stamp now a b).wtr = b.wtr := by
  unfold stamp; split <;> rfl

@[simp] theorem stamp_retryHold (now : Word16) (a b : ServiceEntry) : (stamp now a b).retryHold = b.retryHold := by
  unfold stamp; split <;> rfl

/-- An entry written back as it stands keeps its timestamp. -/
@[simp] theorem stamp_self (now : Word16) (a : ServiceEntry) : stamp now a a = a := by
  simp [stamp]

/-! ## The hard reset state -/

@[simp] theorem reset_entry (n : Service) : State.reset.entry n = resetEntry 0 := by
  simp [State.reset, hardResetState, resetOwnership, State.entry]

@[simp] theorem reset_peer (p : StationId) : State.reset.peer p = resetPeer 0 p := by
  simp [State.reset, hardResetState, State.peer]

@[simp] theorem reset_condition (n : Service) : State.reset.condition n = resetCondition false false := by
  simp [State.reset, hardResetState, State.condition]

end Sys2Proof.Machine
end

