-- ==== Sys2Proof/Laws/Events.lean ====
section
/-! SUPPORT. What posting and popping do to the Event Queue and IRQ, once for all callers (R153 to R155). -/

namespace Sys2Proof.Machine

/-- IRQ's level is the one R155 gives. -/
theorem HostPort.irqLevel_eq (h : HostPort) : h.irqLevel = (h.irqEnable && !h.events.isEmpty) := rfl

/-- A posted event changes the queue, the lost count and IRQ, and no other part of the Host Port. -/
theorem HostPort.post_frame (h : HostPort) (e : EventRecord) :
    h.post e = { h with events := (h.post e).events, lost := (h.post e).lost, irq := (h.post e).irq } := by
  unfold HostPort.post
  split
  · rfl
  · split <;> rfl

/-- What posting an event does: nothing, one record more, or one loss more (R153). -/
theorem HostPort.post_cases (h : HostPort) (e : EventRecord) :
    (h.mask.passes e.kind = false ∧ h.post e = h) ∨
      (h.mask.passes e.kind = true ∧ h.events.length < Config.eventRoom ∧
        h.post e = HostPort.refreshIrq { h with events := h.events ++ [e] }) ∨
      (h.mask.passes e.kind = true ∧ Config.eventRoom ≤ h.events.length ∧ h.post e = { h with lost := satInc h.lost }) := by
  unfold HostPort.post
  split
  · next hm => exact .inl ⟨hm, rfl⟩
  · next hm =>
    have hm' : h.mask.passes e.kind = true := by simpa using hm
    split
    · next hr => exact .inr (.inl ⟨hm', hr, rfl⟩)
    · next hr => exact .inr (.inr ⟨hm', Nat.le_of_not_lt hr, rfl⟩)

/-- Posting keeps the Host Port sound. -/
theorem HostPort.post_sound {h : HostPort} (e : EventRecord) (hs : h.Sound) : (h.post e).Sound := by
  obtain ⟨hi, hl, hz⟩ := hs
  obtain ⟨-, hp⟩ | ⟨-, hr, hp⟩ | ⟨-, hr, hp⟩ := h.post_cases e
  · rw [hp]; exact ⟨hi, hl, hz⟩
  · rw [hp]
    simp only [Config.eventRoom] at hr
    refine ⟨rfl, ?_, ?_⟩
    · simp [HostPort.refreshIrq]; omega
    · intro hne
      have := hz hne
      omega
  · rw [hp]
    simp only [Config.eventRoom] at hr
    exact ⟨hi, hl, fun _ => by simp; omega⟩

end Sys2Proof.Machine
end

