-- ==== Sys2Proof/Laws/Queue.lean ====
section
/-! SUPPORT. The Transmit Queue (R131 to R135): every operation on it keeps its limits, and taking its head does too. -/

namespace Sys2Proof.Machine

theorem emptyQueue_limited : emptyQueue.Limited := ⟨by simp [emptyQueue], by simp [emptyQueue], by simp [emptyQueue],
  by simp [emptyQueue]⟩

/-! ## Lists with one entry for each service -/

theorem joinRelease_services (x : ReleaseEntry) (es : List ReleaseEntry) :
    (joinRelease x es).map (fun e => e.service) =
      if x.service ∈ es.map (fun e => e.service) then es.map (fun e => e.service)
      else es.map (fun e => e.service) ++ [x.service] := by
  induction es with
  | nil => simp [joinRelease]
  | cons y rest ih =>
    unfold joinRelease
    split
    · next h => simp [h]
    · next h =>
      have h' : ¬x.service = y.service := fun e => h e.symm
      simp only [List.map_cons, ih, List.mem_cons, h', false_or]
      split <;> simp

theorem joinObject_services (x : ObjectEntry) (es : List ObjectEntry) :
    (joinObject x es).map (fun e => e.service) =
      if x.service ∈ es.map (fun e => e.service) then es.map (fun e => e.service)
      else es.map (fun e => e.service) ++ [x.service] := by
  induction es with
  | nil => simp [joinObject]
  | cons y rest ih =>
    unfold joinObject
    split
    · next h => simp [h]
    · next h =>
      have h' : ¬x.service = y.service := fun e => h e.symm
      simp only [List.map_cons, ih, List.mem_cons, h', false_or]
      split <;> simp

/-- Naming one service more, unless it is named already, keeps a list without repeats. -/
theorem named_once {x : Service} {ns : List Service} (h : ns.Nodup) :
    (if x ∈ ns then ns else ns ++ [x]) ≠ [] ∧ (if x ∈ ns then ns else ns ++ [x]).Nodup := by
  split
  · next hx => exact ⟨List.ne_nil_of_mem hx, h⟩
  · next hx =>
    refine ⟨by simp, ?_⟩
    rw [List.nodup_append]
    refine ⟨h, by simp, fun a ha b hb e => hx ?_⟩
    rw [List.mem_singleton.mp hb] at e
    exact e ▸ ha

/-! ## The urgent class -/

/-- What a list of urgent frames keeps when it is limited. -/
def UrgentLimited (us : List UrgentFrame) : Prop :=
  (us.filter fun u => u.isRelease).length ≤ 1 ∧ (us.filter fun u => !u.isRelease).length ≤ 1 ∧
    ∀ u ∈ us, u.services ≠ [] ∧ u.services.Nodup

theorem addRelease_counts (x : ReleaseEntry) (us : List UrgentFrame) :
    ((addRelease x us).filter fun u => u.isRelease).length = max 1 (us.filter fun u => u.isRelease).length ∧
      ((addRelease x us).filter fun u => !u.isRelease).length = (us.filter fun u => !u.isRelease).length := by
  induction us with
  | nil => simp [addRelease, UrgentFrame.isRelease]
  | cons u rest ih =>
    cases u with
    | release es => simp [addRelease, UrgentFrame.isRelease]
    | object es => simpa [addRelease, UrgentFrame.isRelease] using ih

theorem addObject_counts (x : ObjectEntry) (us : List UrgentFrame) :
    ((addObject x us).filter fun u => u.isRelease).length = (us.filter fun u => u.isRelease).length ∧
      ((addObject x us).filter fun u => !u.isRelease).length = max 1 (us.filter fun u => !u.isRelease).length := by
  induction us with
  | nil => simp [addObject, UrgentFrame.isRelease]
  | cons u rest ih =>
    cases u with
    | release es => simpa [addObject, UrgentFrame.isRelease] using ih
    | object es => simp [addObject, UrgentFrame.isRelease]

theorem addRelease_lists (x : ReleaseEntry) (us : List UrgentFrame)
    (h : ∀ u ∈ us, u.services ≠ [] ∧ u.services.Nodup) :
    ∀ u ∈ addRelease x us, u.services ≠ [] ∧ u.services.Nodup := by
  induction us with
  | nil => simp [addRelease, UrgentFrame.services]
  | cons u rest ih =>
    obtain ⟨hu, hr⟩ := List.forall_mem_cons.mp h
    cases u with
    | release es =>
      refine List.forall_mem_cons.mpr ⟨?_, hr⟩
      simp only [UrgentFrame.services, joinRelease_services]
      exact named_once hu.2
    | object es => exact List.forall_mem_cons.mpr ⟨hu, ih hr⟩

theorem addObject_lists (x : ObjectEntry) (us : List UrgentFrame)
    (h : ∀ u ∈ us, u.services ≠ [] ∧ u.services.Nodup) :
    ∀ u ∈ addObject x us, u.services ≠ [] ∧ u.services.Nodup := by
  induction us with
  | nil => simp [addObject, UrgentFrame.services]
  | cons u rest ih =>
    obtain ⟨hu, hr⟩ := List.forall_mem_cons.mp h
    cases u with
    | release es => exact List.forall_mem_cons.mpr ⟨hu, ih hr⟩
    | object es =>
      refine List.forall_mem_cons.mpr ⟨?_, hr⟩
      simp only [UrgentFrame.services, joinObject_services]
      exact named_once hu.2

/-! ## The claim class -/

theorem withoutClaim_nodup (n : Service) {cs : List (Service × Epoch)} (h : (cs.map Prod.fst).Nodup) :
    ((withoutClaim n cs).map Prod.fst).Nodup :=
  h.sublist (List.filter_sublist.map _)

theorem not_mem_withoutClaim (n : Service) (cs : List (Service × Epoch)) :
    n ∉ (withoutClaim n cs).map Prod.fst := by
  simp [withoutClaim]

/-! ## The queue -/

theorem TxQueue.Limited.addStatus {q : TxQueue} (h : q.Limited) : q.addStatus.Limited :=
  ⟨h.releases, h.objects, h.lists, h.claims⟩

theorem TxQueue.Limited.addRelease {q : TxQueue} (h : q.Limited) (x : ReleaseEntry) : (q.addRelease x).Limited where
  releases := by
    have := (addRelease_counts x q.urgent).1
    have := h.releases
    simp only [TxQueue.addRelease]; omega
  objects := by
    have := (addRelease_counts x q.urgent).2
    have := h.objects
    simp only [TxQueue.addRelease]; omega
  lists := addRelease_lists x q.urgent h.lists
  claims := withoutClaim_nodup _ h.claims

theorem TxQueue.Limited.addObject {q : TxQueue} (h : q.Limited) (x : ObjectEntry) : (q.addObject x).Limited where
  releases := by
    have := (addObject_counts x q.urgent).1
    have := h.releases
    simp only [TxQueue.addObject]; omega
  objects := by
    have := (addObject_counts x q.urgent).2
    have := h.objects
    simp only [TxQueue.addObject]; omega
  lists := addObject_lists x q.urgent h.lists
  claims := h.claims

theorem TxQueue.Limited.addClaim {q : TxQueue} (h : q.Limited) (n : Service) (e : Epoch) : (q.addClaim n e).Limited where
  releases := h.releases
  objects := h.objects
  lists := h.lists
  claims := by
    simp only [TxQueue.addClaim, List.map_append, List.map_cons, List.map_nil]
    rw [List.nodup_append]
    refine ⟨withoutClaim_nodup n h.claims, by simp, ?_⟩
    intro a ha b hb hab
    rw [List.mem_singleton.mp hb] at hab
    rw [hab] at ha
    exact not_mem_withoutClaim n q.claims ha

theorem TxQueue.Limited.dropClaims {q : TxQueue} (h : q.Limited) : TxQueue.Limited { q with claims := [] } :=
  ⟨h.releases, h.objects, h.lists, by simp⟩

theorem TxQueue.Limited.addReleases {q : TxQueue} (h : q.Limited) (xs : List ReleaseEntry) :
    (q.addReleases xs).Limited := by
  unfold TxQueue.addReleases
  induction xs generalizing q with
  | nil => exact h
  | cons x rest ih => exact ih (h.addRelease x)

/-- A limited queue holds at most 19 frames (R131, Table 9-2). -/
theorem TxQueue.Limited.size_le {q : TxQueue} (h : q.Limited) : q.size ≤ 19 := by
  have hu : q.urgent.length ≤ 2 := by
    have := List.length_eq_length_filter_add (l := q.urgent) (fun u => u.isRelease)
    have := h.releases
    have := h.objects
    omega
  have hc : q.claims.length ≤ 16 := by
    have := h.claims.length_le_card
    simpa using this
  unfold TxQueue.size
  split <;> omega

/-! ## Taking the head -/

theorem takeHead_none {q : TxQueue} : q.takeHead = none ↔ q = emptyQueue := by
  obtain ⟨us, cs, st⟩ := q
  constructor
  · intro h
    cases us with
    | cons u rest => cases u <;> simp [TxQueue.takeHead] at h
    | nil =>
      cases cs with
      | cons c rest => simp [TxQueue.takeHead] at h
      | nil => cases st <;> simp [TxQueue.takeHead, emptyQueue] at h ⊢
  · intro h
    rw [h]; rfl

theorem takeHead_limited {q q' : TxQueue} {f : TxFrame} (hq : q.Limited) (h : q.takeHead = some (f, q')) :
    f.Limited ∧ q'.Limited := by
  obtain ⟨us, cs, st⟩ := q
  cases us with
  | cons u rest =>
    have hl := hq.lists u (by simp)
    have hr : TxQueue.Limited { urgent := rest, claims := cs, status := st } :=
      ⟨le_trans (List.Sublist.length_le (List.Sublist.filter _ (List.sublist_cons_self ..))) hq.releases,
        le_trans (List.Sublist.length_le (List.Sublist.filter _ (List.sublist_cons_self ..))) hq.objects,
        fun v hv => hq.lists v (List.mem_cons_of_mem _ hv), hq.claims⟩
    cases u with
    | release es =>
      simp only [TxQueue.takeHead, Option.some.injEq, Prod.mk.injEq] at h
      obtain ⟨rfl, rfl⟩ := h
      exact ⟨hl, hr⟩
    | object es =>
      simp only [TxQueue.takeHead, Option.some.injEq, Prod.mk.injEq] at h
      obtain ⟨rfl, rfl⟩ := h
      exact ⟨hl, hr⟩
  | nil =>
    cases cs with
    | cons c rest =>
      obtain ⟨n, e⟩ := c
      simp only [TxQueue.takeHead, Option.some.injEq, Prod.mk.injEq] at h
      obtain ⟨rfl, rfl⟩ := h
      have hc := hq.claims
      simp only [List.map_cons, List.nodup_cons] at hc
      exact ⟨trivial, hq.releases, hq.objects, hq.lists, hc.2⟩
    | nil =>
      cases st with
      | true =>
        simp only [TxQueue.takeHead, Option.some.injEq, Prod.mk.injEq] at h
        obtain ⟨rfl, rfl⟩ := h
        exact ⟨trivial, hq.releases, hq.objects, hq.lists, hq.claims⟩
      | false => simp [TxQueue.takeHead] at h

end Sys2Proof.Machine
end

