-- ==== Sys2Proof/Laws/Frames.lean ====
section
/-! SUPPORT. What the shared operations of the Ownership Controller can change, said once: `OwnerStep s t` holds between the
state before and the state after each of them, and later proofs cite it instead of unfolding the operation. -/

namespace Sys2Proof.Machine

/-- A READY Transmitter has nothing queued (R135). -/
def State.Drained (s : State) : Prop := s.tx.state = .ready → s.tx.queue = emptyQueue

/-- The Transmitter's consistency depends on the Transmitter and the phase alone. -/
theorem State.TxCore.congr {s t : State} (ht : t.tx = s.tx) (hp : t.station.phase = s.station.phase) (h : s.TxCore) :
    t.TxCore :=
  ⟨by rw [ht]; exact h.flight, by rw [ht]; exact h.agrees, by rw [ht]; exact h.backOff, by rw [ht]; exact h.deaf,
    by rw [ht]; exact h.queue, by rw [ht, hp]; exact h.silent⟩

/-- An action of the Ownership Controller changes its own table and drives, the Transmit Queue with the frame taken from
it, and the Event Queue, and nothing else; drives follow the table, the Host Port stays sound and the Transmitter
consistent, and a Transmitter that is busy keeps its state and its frame. -/
structure OwnerStep (s t : State) : Prop where
  timebase : t.timebase = s.timebase
  cond : t.cond = s.cond
  peers : t.peers = s.peers
  station : t.station = s.station
  rx : t.rx = s.rx
  tx : t.tx = { s.tx with state := t.tx.state, queue := t.tx.queue, flight := t.tx.flight }
  host : t.host = { s.host with events := t.host.events, lost := t.host.lost, irq := t.host.irq }
  pending : t.pending = s.pending
  rstLow : t.rstLow = s.rstLow
  freeCount : t.freeCount = s.freeCount
  drives : s.DriveFollowsHeld → t.DriveFollowsHeld
  sound : s.host.Sound → t.host.Sound
  core : s.TxCore → t.TxCore
  drained : s.TxCore → s.Drained → t.Drained
  busy : s.tx.state ≠ .ready → t.tx.state = s.tx.state ∧ t.tx.flight = s.tx.flight
  halted : t.tx.state = .halted → s.tx.state = .halted

namespace OwnerStep

protected theorem refl (s : State) : OwnerStep s s :=
  ⟨rfl, rfl, rfl, rfl, rfl, rfl, rfl, rfl, rfl, rfl, id, id, id, fun _ => id, fun _ => ⟨rfl, rfl⟩, id⟩

protected theorem trans {s t u : State} (h : OwnerStep s t) (k : OwnerStep t u) : OwnerStep s u where
  timebase := k.timebase.trans h.timebase
  cond := k.cond.trans h.cond
  peers := k.peers.trans h.peers
  station := k.station.trans h.station
  rx := k.rx.trans h.rx
  tx := by rw [k.tx, h.tx]
  host := by rw [k.host, h.host]
  pending := k.pending.trans h.pending
  rstLow := k.rstLow.trans h.rstLow
  freeCount := k.freeCount.trans h.freeCount
  drives := k.drives ∘ h.drives
  sound := k.sound ∘ h.sound
  core := k.core ∘ h.core
  drained := fun hc hd => k.drained (h.core hc) (h.drained hc hd)
  busy := fun hs => by
    have h1 := h.busy hs
    have h2 := k.busy (h1.1 ▸ hs)
    exact ⟨h2.1.trans h1.1, h2.2.trans h1.2⟩
  halted := h.halted ∘ k.halted

/-- An action that leaves the Transmitter alone. -/
protected theorem quiet {s t : State} (h1 : t.timebase = s.timebase) (h2 : t.cond = s.cond) (h3 : t.peers = s.peers)
    (h4 : t.station = s.station) (h5 : t.rx = s.rx) (h6 : t.tx = s.tx)
    (h7 : t.host = { s.host with events := t.host.events, lost := t.host.lost, irq := t.host.irq })
    (h8 : t.pending = s.pending) (hr : t.rstLow = s.rstLow) (h9 : t.freeCount = s.freeCount)
    (hd : s.DriveFollowsHeld → t.DriveFollowsHeld)
    (hs : s.host.Sound → t.host.Sound) : OwnerStep s t where
  timebase := h1
  cond := h2
  peers := h3
  station := h4
  rx := h5
  tx := by rw [h6]
  host := h7
  pending := h8
  rstLow := hr
  freeCount := h9
  drives := hd
  sound := hs
  core := fun h => h.congr h6 (by rw [h4])
  drained := fun _ h => by unfold State.Drained; rw [h6]; exact h
  busy := fun _ => by rw [h6]; exact ⟨rfl, rfl⟩
  halted := fun h => by rw [h6] at h; exact h

/-- What an `OwnerStep` leaves for the readers of the other blocks. -/
theorem condition {s t : State} (h : OwnerStep s t) (n : Service) : t.condition n = s.condition n := by
  simp [State.condition, h.cond]

theorem peer {s t : State} (h : OwnerStep s t) (p : StationId) : t.peer p = s.peer p := by
  simp [State.peer, h.peers]

theorem planOf {s t : State} (h : OwnerStep s t) (n : Service) : t.planOf n = s.planOf n := by
  simp [State.planOf, h.station]

theorem isLive {s t : State} (h : OwnerStep s t) (p : StationId) : t.isLive p = s.isLive p := by
  simp [State.isLive, h.peer]

end OwnerStep

theorem post_step (k : EventKind) (n : Option Service) (p : Option StationId) (e : Option Epoch) (d : Option Detail)
    (s : State) : OwnerStep s (post k n p e d s) :=
  .quiet rfl rfl rfl rfl rfl rfl (HostPort.post_frame ..) rfl rfl rfl (fun h => h) (fun h => HostPort.post_sound _ h)

theorem putEntry_step (n : Service) (e : ServiceEntry) (s : State) : OwnerStep s (putEntry n e s) := by
  refine .quiet rfl rfl rfl rfl rfl rfl rfl rfl rfl rfl (fun h m => ?_) id
  by_cases hm : m = n
  · subst hm; simp
  · rw [putEntry_drv_ne _ _ hm, putEntry_entry_ne _ _ hm]; exact h m

theorem changeEntry_step (n : Service) (e : ServiceEntry) (s : State) : OwnerStep s (changeEntry n e s) := by
  simp only [changeEntry]
  split
  · exact (putEntry_step ..).trans (post_step ..)
  · exact putEntry_step ..

/-! ## Requests to the Transmitter -/

/-- Queuing keeps the Transmitter consistent, but for the head that a READY Transmitter has yet to take. -/
theorem enqueue_core {f : TxQueue → TxQueue} (hf : ∀ q, q.Limited → (f q).Limited) {s : State} (h : s.TxCore) :
    (enqueue f s).TxCore := by
  unfold enqueue
  split
  · next hp =>
    refine ⟨h.flight, h.agrees, h.backOff, h.deaf, hf _ h.queue, fun hs => ?_⟩
    simp only [withTx_station] at hs
    rw [hp] at hs; cases hs
  · exact h

/-- A READY Transmitter takes the head: it stays consistent, and it has nothing queued afterwards (R135). -/
theorem takeNext_core {s : State} (h : s.TxCore) : (takeNext s).TxCore ∧ (takeNext s).Drained := by
  unfold takeNext
  split
  · next hr =>
    split
    · next f q hq =>
      obtain ⟨hf, hl⟩ := takeHead_limited h.queue hq
      refine ⟨⟨?_, ?_, ?_, h.deaf, hl, ?_⟩, fun hs => ?_⟩
      · simp
      · intro g hg
        simp only [withTx_tx, Option.some.injEq] at hg
        subst hg
        exact ⟨hf, by simp, by simp, by simp, by simp, by simp⟩
      · have hb : s.tx.backOff = none := by
          by_contra hb
          rw [h.backOff.mp hb] at hr
          exact absurd hr.2 (by simp)
        simp [hb]
      · intro hs
        simp only [withTx_station] at hs
        rw [hr.1] at hs; cases hs
      · simp at hs
    · next hq => exact ⟨h, fun _ => takeHead_none.mp hq⟩
  · next hr =>
    refine ⟨h, fun hs => ?_⟩
    have hp : s.station.phase.sends = false := by
      by_contra hp
      exact hr ⟨by simpa using hp, hs⟩
    exact (h.silent hp).1

theorem takeNext_fields (s : State) :
    takeNext s = s.withTx { s.tx with
      state := (takeNext s).tx.state, queue := (takeNext s).tx.queue, flight := (takeNext s).tx.flight } := by
  unfold takeNext
  split
  · split <;> rfl
  · rfl

theorem takeNext_step (s : State) : OwnerStep s (takeNext s) where
  timebase := by rw [takeNext_fields]; rfl
  cond := by rw [takeNext_fields]; rfl
  peers := by rw [takeNext_fields]; rfl
  station := by rw [takeNext_fields]; rfl
  rx := by rw [takeNext_fields]; rfl
  tx := by rw [takeNext_fields]; rfl
  host := by rw [takeNext_fields]; rfl
  pending := by rw [takeNext_fields]; rfl
  rstLow := by rw [takeNext_fields]; rfl
  freeCount := by rw [takeNext_fields]; rfl
  drives := by rw [takeNext_fields]; exact id
  sound := by rw [takeNext_fields]; exact id
  core := fun h => (takeNext_core h).1
  drained := fun h _ => (takeNext_core h).2
  busy := fun hs => by
    unfold takeNext
    split
    · next hr => exact absurd hr.2 hs
    · exact ⟨rfl, rfl⟩
  halted := by
    unfold takeNext
    split
    · split
      · intro h; simp at h
      · exact id
    · exact id

theorem enqueue_fields (f : TxQueue → TxQueue) (s : State) :
    enqueue f s = s.withTx { s.tx with queue := (enqueue f s).tx.queue } := by
  unfold enqueue
  split <;> rfl

/-- A request is queued, and taken at once by a READY Transmitter. -/
theorem request_step {f : TxQueue → TxQueue} (hf : ∀ q, q.Limited → (f q).Limited) (s : State) :
    OwnerStep s (request f s) := by
  have k := takeNext_step (enqueue f s)
  have e := enqueue_fields f s
  refine ⟨?_, ?_, ?_, ?_, ?_, ?_, ?_, ?_, ?_, ?_, ?_, ?_, ?_, ?_, ?_, ?_⟩ <;> unfold request
  · rw [k.timebase, e]; rfl
  · rw [k.cond, e]; rfl
  · rw [k.peers, e]; rfl
  · rw [k.station, e]; rfl
  · rw [k.rx, e]; rfl
  · rw [k.tx, e]; rfl
  · rw [k.host, e]; rfl
  · rw [k.pending, e]; rfl
  · rw [k.rstLow, e]; rfl
  · rw [k.freeCount, e]; rfl
  · exact fun h => k.drives (by rw [e]; exact h)
  · exact fun h => k.sound (by rw [e]; exact h)
  · exact fun h => k.core (enqueue_core hf h)
  · exact fun h _ => (takeNext_core (enqueue_core hf h)).2
  · intro hs
    have he : (enqueue f s).tx.state = s.tx.state ∧ (enqueue f s).tx.flight = s.tx.flight := by rw [e]; exact ⟨rfl, rfl⟩
    have := k.busy (he.1 ▸ hs)
    exact ⟨this.1.trans he.1, this.2.trans he.2⟩
  · intro h
    have := k.halted h
    rw [e] at this
    exact this

theorem requestStatus_step (s : State) : OwnerStep s (requestStatus s) := request_step (fun _ h => h.addStatus) s

theorem requestRelease_step (n : Service) (e : Epoch) (r : ReleaseReason) (s : State) :
    OwnerStep s (requestRelease n e r s) := request_step (fun _ h => h.addRelease _) s

theorem requestObject_step (x : ObjectEntry) (s : State) : OwnerStep s (requestObject x s) :=
  request_step (fun _ h => h.addObject x) s

theorem requestClaim_step (n : Service) (e : Epoch) (s : State) : OwnerStep s (requestClaim n e s) :=
  request_step (fun _ h => h.addClaim n e) s

/-- An operation on each service keeps what each of its sixteen parts keeps. -/
theorem forEach_step {f : Fin 16 → State → State} (h : ∀ n s, OwnerStep s (f n s)) (s : State) :
    OwnerStep s (forEach f s) := by
  unfold forEach
  induction allSixteen generalizing s with
  | nil => exact .refl s
  | cons n rest ih => exact (h n s).trans (ih _)

/-- The same over a list. -/
theorem foldl_step {α : Type} {f : State → α → State} (h : ∀ s x, OwnerStep s (f s x)) (xs : List α) (s : State) :
    OwnerStep s (xs.foldl f s) := by
  induction xs generalizing s with
  | nil => exact .refl s
  | cons x rest ih => exact (h s x).trans (ih _)

/-! ## Evaluation -/

theorem removeWtr_step (n : Service) (s : State) : OwnerStep s (removeWtr n s) := putEntry_step ..

theorem startWtr_step (n : Service) (s : State) : OwnerStep s (startWtr n s) := putEntry_step ..

theorem queueOwnClaim_step (n : Service) (e : Epoch) (m : ClaimMode) (s : State) : OwnerStep s (queueOwnClaim n e m s) :=
  (putEntry_step ..).trans (requestClaim_step ..)

theorem evaluateFree_step (n : Service) (s : State) : OwnerStep s (evaluateFree n s) := by
  simp only [evaluateFree]
  split
  · exact queueOwnClaim_step ..
  · exact removeWtr_step ..

theorem evaluateRemote_step (n : Service) (p : StationId) (b : ServiceByte) (s : State) :
    OwnerStep s (evaluateRemote n p b s) := by
  simp only [evaluateRemote]
  split
  · exact queueOwnClaim_step ..
  · split
    · split
      · exact startWtr_step ..
      · split
        · exact queueOwnClaim_step ..
        · exact .refl s
    · exact removeWtr_step ..

theorem evaluateWatching_step (n : Service) (r : ClaimRecord) (s : State) : OwnerStep s (evaluateWatching n r s) := by
  simp only [evaluateWatching]
  split
  · exact queueOwnClaim_step ..
  · exact .refl s

theorem evaluate_step (n : Service) (s : State) : OwnerStep s (evaluate n s) := by
  simp only [evaluate]
  split
  · exact .refl s
  · split
    · exact evaluateFree_step ..
    · exact evaluateFree_step ..
    · split
      · split
        · exact evaluateRemote_step ..
        · exact removeWtr_step ..
      · exact removeWtr_step ..
    · exact removeWtr_step ..
    · exact .refl s
    · split
      · exact evaluateWatching_step ..
      · exact .refl s

theorem evaluateAll_step (s : State) : OwnerStep s (evaluateAll s) := forEach_step evaluate_step s

/-! ## The claim exchange -/

theorem dropRecord_step (n : Service) (s : State) : OwnerStep s (dropRecord n s) := changeEntry_step ..

theorem failOwnClaim_step (n : Service) (r : ClaimRecord) (c : FailCause) (p : Option StationId) (s : State) :
    OwnerStep s (failOwnClaim n r c p s) := (post_step ..).trans (changeEntry_step ..)

theorem acceptOwnClaim_step (n : Service) (r : ClaimRecord) (s : State) : OwnerStep s (acceptOwnClaim n r s) :=
  (((putEntry_step ..).trans (requestStatus_step _)).trans (post_step ..)).trans (evaluate_step ..)

theorem acceptWatchedClaim_step (n : Service) (r : ClaimRecord) (s : State) : OwnerStep s (acceptWatchedClaim n r s) :=
  (changeEntry_step ..).trans (evaluate_step ..)

theorem endWindow_step (n : Service) (r : ClaimRecord) (s : State) : OwnerStep s (endWindow n r s) := by
  unfold endWindow
  split
  · split
    · exact (failOwnClaim_step ..).trans (evaluate_step ..)
    · exact acceptOwnClaim_step ..
  · split
    · exact (dropRecord_step ..).trans (evaluate_step ..)
    · exact acceptWatchedClaim_step ..

theorem claimSentClean_step (n : Service) (e : Epoch) (s : State) : OwnerStep s (claimSentClean n e s) := by
  simp only [claimSentClean]
  split
  · split
    · exact (putEntry_step ..).trans (endWindow_step ..)
    · exact putEntry_step ..
  · split
    · exact requestRelease_step ..
    · exact .refl s

theorem claimGivenUp_step (n : Service) (e : Epoch) (s : State) : OwnerStep s (claimGivenUp n e s) := by
  unfold claimGivenUp
  split
  · exact (failOwnClaim_step ..).trans (evaluate_step ..)
  · exact .refl s

theorem withdrawClaim_step (n : Service) (r : ClaimRecord) (s : State) : OwnerStep s (withdrawClaim n r s).1 :=
  failOwnClaim_step ..

theorem withdrawOwn_step (n : Service) (s : State) : OwnerStep s (withdrawOwn n s) := by
  unfold withdrawOwn
  split
  · next r _ _ =>
    refine OwnerStep.trans ?_ (evaluate_step ..)
    split
    · exact (withdrawClaim_step n r s).trans (request_step (fun _ h => h.addRelease _) _)
    · exact withdrawClaim_step n r s
  · exact .refl s

theorem leaveHeld_step (n : Service) (o : Option StationId) (e : Option Epoch) (st : EntryState) (k : Option Nat)
    (r : DropReason) (s : State) : OwnerStep s (leaveHeld n o e st k r s) := (putEntry_step ..).trans (post_step ..)

theorem releaseOnLockout_step (n : Service) (s : State) : OwnerStep s (releaseOnLockout n s) :=
  ((leaveHeld_step ..).trans (requestRelease_step ..)).trans (evaluate_step ..)

theorem handOver_step (p : StationId) (c : ClaimBody) (s : State) : OwnerStep s (handOver p c s) :=
  ((leaveHeld_step ..).trans (requestRelease_step ..)).trans (evaluate_step ..)

theorem judgeTakeover_step (p : StationId) (c : ClaimBody) (s : State) : OwnerStep s (judgeTakeover p c s) := by
  unfold judgeTakeover
  split
  · exact requestObject_step ..
  · split
    · exact requestObject_step ..
    · exact handOver_step ..

theorem recordClaim_step (p : StationId) (c : ClaimBody) (s : State) : OwnerStep s (recordClaim p c s) :=
  (putEntry_step ..).trans (evaluate_step ..)

theorem compareClaim_step (p : StationId) (c : ClaimBody) (r : ClaimRecord) (s : State) :
    OwnerStep s (compareClaim p c r s) := by
  simp only [compareClaim]
  split
  · exact .refl s
  · split
    · exact ((putEntry_step ..).trans (post_step ..)).trans (evaluate_step ..)
    · exact putEntry_step ..

theorem receiveClaim_step (p : StationId) (c : ClaimBody) (s : State) : OwnerStep s (receiveClaim p c s) := by
  simp only [receiveClaim]
  split
  · exact .refl s
  · split
    · exact .refl s
    · split
      · split
        · exact judgeTakeover_step ..
        · exact requestObject_step ..
      · split
        · exact .refl s
        · split
          · exact .refl s
          · split
            · exact recordClaim_step ..
            · exact compareClaim_step ..

/-! ## RELEASE and OBJECT -/

theorem receiveWithdraw_step (p : StationId) (x : ReleaseEntry) (s : State) : OwnerStep s (receiveWithdraw p x s) := by
  unfold receiveWithdraw
  split
  · split
    · exact (dropRecord_step ..).trans (evaluate_step ..)
    · exact .refl s
  · exact .refl s

theorem releaseByOwner_step (p : StationId) (x : ReleaseEntry) (s : State) : OwnerStep s (releaseByOwner p x s) := by
  simp only [releaseByOwner]
  split
  · split
    · exact (changeEntry_step ..).trans (evaluate_step ..)
    · exact changeEntry_step ..
  · exact .refl s

theorem answerRecord_step (n : Service) (r : ClaimRecord) (s : State) : OwnerStep s (answerRecord n r s) := by
  simp only [answerRecord]
  split
  · exact (putEntry_step ..).trans (endWindow_step ..)
  · exact putEntry_step ..

theorem receiveRelease_step (p : StationId) (x : ReleaseEntry) (s : State) : OwnerStep s (receiveRelease p x s) := by
  unfold receiveRelease
  split
  · exact .refl s
  · split
    · exact receiveWithdraw_step ..
    · split
      · split
        · exact answerRecord_step ..
        · exact releaseByOwner_step ..
      · exact releaseByOwner_step ..

theorem receiveObject_step (p : StationId) (x : ObjectEntry) (s : State) : OwnerStep s (receiveObject p x s) := by
  simp only [receiveObject]
  split
  · exact .refl s
  · split
    · split
      · split
        · exact ((post_step ..).trans (changeEntry_step ..)).trans (evaluate_step ..)
        · exact (changeEntry_step ..).trans (evaluate_step ..)
      · exact .refl s
    · exact .refl s

/-! ## Reports of peer state and reconciliation -/

theorem settleForPeer_step (p : StationId) (n : Service) (s : State) : OwnerStep s (settleForPeer p n s) := by
  simp only [settleForPeer]
  split
  · split
    · exact dropRecord_step ..
    · exact .refl s
  · split
    · exact changeEntry_step ..
    · exact .refl s

theorem reportPeerState_step (p : StationId) (s : State) : OwnerStep s (reportPeerState p s) :=
  (forEach_step (settleForPeer_step p) s).trans (evaluateAll_step _)

theorem departEntry_step (p : StationId) (n : Service) (s : State) : OwnerStep s (departEntry p n s) := by
  simp only [departEntry]
  split
  · exact (changeEntry_step ..).trans (settleForPeer_step ..)
  · exact settleForPeer_step ..

theorem reportDeparture_step (p : StationId) (s : State) : OwnerStep s (reportDeparture p s) :=
  (forEach_step (departEntry_step p) s).trans (evaluateAll_step _)

theorem adopt_step (n : Service) (p : StationId) (f : Epoch) (s : State) : OwnerStep s (adopt n p f s) :=
  changeEntry_step ..

theorem supersede_step (n : Service) (p : StationId) (f : Epoch) (s : State) : OwnerStep s (supersede n p f s) :=
  leaveHeld_step ..

theorem winDualHold_step (n : Service) (p : StationId) (g : DualGround) (s : State) : OwnerStep s (winDualHold n p g s) :=
  (requestStatus_step s).trans (post_step ..)

theorem settleDualHold_step (n : Service) (p : StationId) (f : Epoch) (t : ClaimTuple) (s : State) :
    OwnerStep s (settleDualHold n p f t s) := by
  unfold settleDualHold
  split
  · exact supersede_step ..
  · exact winDualHold_step ..
  · split
    · exact supersede_step ..
    · exact winDualHold_step ..

theorem reconcileRemote_step (n : Service) (p q : StationId) (f : Epoch) (t : ClaimTuple) (s : State) :
    OwnerStep s (reconcileRemote n p q f t s) := by
  unfold reconcileRemote
  split
  · exact adopt_step ..
  · exact .refl s
  · split
    · split
      · exact adopt_step ..
      · exact .refl s
    · exact .refl s

theorem reconcile_step (n : Service) (p : StationId) (b : StatusBody) (s : State) : OwnerStep s (reconcile n p b s) := by
  simp only [reconcile]
  split
  · exact putEntry_step ..
  · split
    · split
      · split
        · exact .refl s
        · exact changeEntry_step ..
      · exact changeEntry_step ..
    · split
      · exact .refl s
      · split
        · split
          · exact settleDualHold_step ..
          · exact .refl s
        · exact adopt_step ..
        · exact adopt_step ..
        · split
          · exact reconcileRemote_step ..
          · exact .refl s
        · exact .refl s
        · exact .refl s

theorem reconcileDefined_step (n : Service) (p : StationId) (b : StatusBody) (s : State) :
    OwnerStep s (reconcileDefined n p b s) := by
  unfold reconcileDefined
  split
  · exact reconcile_step ..
  · exact .refl s

theorem statusService_step (p : StationId) (b : StatusBody) (marks : Table Bool) (n : Service) (s : State) :
    OwnerStep s (statusService p b marks n s) := by
  simp only [statusService]
  split
  · exact (reconcileDefined_step ..).trans (evaluate_step ..)
  · exact reconcileDefined_step ..

theorem receiveStatus_step (p : StationId) (b : StatusBody) (marks : Table Bool) (s : State) :
    OwnerStep s (receiveStatus p b marks s) := forEach_step (statusService_step p b marks) s

/-! ## Phase changes at the table -/

theorem leaveEntry_step (n : Service) (s : State) : OwnerStep s (leaveEntry n s).1 := by
  unfold leaveEntry
  dsimp only
  split
  · exact (leaveHeld_step ..).trans (removeWtr_step ..)
  · next r _ _ => exact (withdrawClaim_step n r s).trans (removeWtr_step ..)
  · exact removeWtr_step ..

theorem leaveEntries_step (ns : List Service) (s : State) : OwnerStep s (leaveEntries ns s).1 := by
  induction ns generalizing s with
  | nil => exact .refl s
  | cons n rest ih => exact (leaveEntry_step n s).trans (ih _)

theorem muteEntry_step (n : Service) (s : State) : OwnerStep s (muteEntry n s) := by
  simp only [muteEntry]
  split
  · exact (leaveHeld_step ..).trans (removeWtr_step ..)
  · exact (dropRecord_step ..).trans (removeWtr_step ..)
  · exact removeWtr_step ..

end Sys2Proof.Machine
end

