-- ==== Sys2Proof/Laws/Commands.lean ====
section
/-! SUPPORT. What every command of the part keeps: the queue of waiting commands, the drives following the table (R42) and
the Host Port's soundness (R153, R155). One lemma per shared operation, then one for `exec`. -/

namespace Sys2Proof.Machine

/-- What any action of the part keeps. -/
structure PartStep (s t : State) : Prop where
  pending : t.pending = s.pending
  drives : s.DriveFollowsHeld → t.DriveFollowsHeld
  sound : s.host.Sound → t.host.Sound

namespace PartStep

protected theorem refl (s : State) : PartStep s s := ⟨rfl, id, id⟩

protected theorem trans {s t u : State} (h : PartStep s t) (k : PartStep t u) : PartStep s u :=
  ⟨k.pending.trans h.pending, k.drives ∘ h.drives, k.sound ∘ h.sound⟩

/-- An action that leaves the Ownership Controller, the Host Port and the queue of waiting commands alone. -/
protected theorem elsewhere {s t : State} (ho : t.oc = s.oc) (hh : t.host = s.host) (hp : t.pending = s.pending) :
    PartStep s t :=
  ⟨hp, fun h n => by have := h n; unfold State.entry at this ⊢; rw [ho]; exact this, fun h => by rw [hh]; exact h⟩

/-- An action of the Host Port that leaves its queue, lost count and IRQ alone. -/
protected theorem atHost {s t : State} (ho : t.oc = s.oc) (hp : t.pending = s.pending)
    (he : t.host.events = s.host.events) (hl : t.host.lost = s.host.lost) (hi : t.host.irq = s.host.irq)
    (hn : t.host.irqEnable = s.host.irqEnable) : PartStep s t :=
  ⟨hp, fun h n => by have := h n; unfold State.entry at this ⊢; rw [ho]; exact this,
    fun h => by
      obtain ⟨a, b, c⟩ := h
      refine ⟨?_, by rw [he]; exact b, by rw [he, hl]; exact c⟩
      rw [hi, a]; simp [he, hn]⟩

end PartStep

theorem OwnerStep.part {s t : State} (h : OwnerStep s t) : PartStep s t := ⟨h.pending, h.drives, h.sound⟩

theorem forEach_part {f : Fin 16 → State → State} (h : ∀ n s, PartStep s (f n s)) (s : State) :
    PartStep s (forEach f s) := by
  unfold forEach
  induction allSixteen generalizing s with
  | nil => exact .refl s
  | cons n rest ih => exact (h n s).trans (ih _)

theorem withTx_part (s : State) (x : Transmitter) : PartStep s (s.withTx x) := .elsewhere rfl rfl rfl

theorem withRx_part (s : State) (x : Receiver) : PartStep s (s.withRx x) := .elsewhere rfl rfl rfl

theorem withPeers_part (s : State) (x : PeerMonitor) : PartStep s (s.withPeers x) := .elsewhere rfl rfl rfl

theorem withStation_part (s : State) (x : StationController) : PartStep s (s.withStation x) := .elsewhere rfl rfl rfl

theorem putPeer_part (p : StationId) (e : PeerEntry) (s : State) : PartStep s (putPeer p e s) := .elsewhere rfl rfl rfl

theorem putCondition_part (n : Service) (c : ServiceCondition) (s : State) : PartStep s (putCondition n c s) :=
  .elsewhere rfl rfl rfl

theorem setPhase_part (p : Phase) (s : State) : PartStep s (setPhase p s) := .elsewhere rfl rfl rfl

theorem stopTimers_part (s : State) : PartStep s (stopTimers s) := .elsewhere rfl rfl rfl

theorem setResult_part (r : CommandResult) (s : State) : PartStep s (setResult r s) :=
  .atHost rfl rfl rfl rfl rfl rfl

theorem storeCode_part (c : Byte) (s : State) : PartStep s (storeCode c s) := .atHost rfl rfl rfl rfl rfl rfl

theorem moveAddress_part (a : HostAddress) (s : State) : PartStep s (moveAddress a s) := by
  unfold moveAddress
  split
  · exact .atHost rfl rfl rfl rfl rfl rfl
  · exact .refl s
  · exact .refl s

/-! ## Condition Monitor -/

theorem reform_part (n : Service) (s : State) : PartStep s (reform n s) := putCondition_part ..

theorem withdrawIfDue_step (n : Service) (old : ServiceCondition) (s : State) :
    OwnerStep s (withdrawIfDue n old s) := by
  unfold withdrawIfDue
  split
  · exact withdrawOwn_step ..
  · exact .refl s

theorem releaseIfLocked_step (n : Service) (s : State) : OwnerStep s (releaseIfLocked n s) := by
  unfold releaseIfLocked
  split
  · exact releaseOnLockout_step ..
  · exact .refl s

theorem enqueue_part (f : TxQueue → TxQueue) (s : State) : PartStep s (enqueue f s) := by
  unfold enqueue
  split
  · exact .elsewhere rfl rfl rfl
  · exact .refl s

theorem reportStatus_part (s : State) : PartStep s (reportStatus s) := by
  unfold reportStatus
  split
  · exact enqueue_part ..
  · exact .refl s

theorem takeReport_part (n : Service) (old : ServiceCondition) (s : State) : PartStep s (takeReport n old s) :=
  (((evaluate_step ..).trans (withdrawIfDue_step ..)).trans (releaseIfLocked_step ..)).part.trans (reportStatus_part _)

theorem postGrade_step (n : Service) (g : Grade) (s : State) : OwnerStep s (postGrade n g s) := by
  simp only [postGrade]
  split
  · exact post_step ..
  · exact .refl s

theorem updateCondition_part (n : Service) (c : ServiceCondition) (s : State) :
    PartStep s (updateCondition n c s) := by
  simp only [updateCondition]
  split
  · exact (putCondition_part ..).trans (reform_part ..)
  · exact ((putCondition_part ..).trans (reform_part ..)).trans
      ((postGrade_step ..).part.trans (takeReport_part ..))

theorem debounce_part (n : Service) (s : State) : PartStep s (debounce n s) :=
  (updateCondition_part ..).trans (takeNext_step _).part

theorem rawChanged_part (n : Service) (s : State) : PartStep s (rawChanged n s) := by
  simp only [rawChanged]
  split
  · exact putCondition_part ..
  · split
    · split
      · exact debounce_part ..
      · exact putCondition_part ..
    · exact putCondition_part ..

theorem listenEntry_part (n : Service) (s : State) : PartStep s (listenEntry n s) := updateCondition_part ..

theorem operatorRequest_part (r : Request) (b : Bool) (s : State) : PartStep s (operatorRequest r b s) := by
  unfold operatorRequest
  split
  · exact ((setResult_part ..).trans (updateCondition_part ..)).trans (takeNext_step _).part
  · exact setResult_part ..

/-! ## Peer Monitor -/

theorem refreshIsolated_part (j : Option StationId) (s : State) : PartStep s (refreshIsolated j s) := by
  simp only [refreshIsolated]
  split
  · exact .refl s
  · split
    · exact (withPeers_part ..).trans (post_step ..).part
    · split
      · exact (withPeers_part ..).trans (post_step ..).part
      · exact (withPeers_part ..).trans (post_step ..).part

theorem reportFlag_part (b : Bool) (s : State) : PartStep s (reportFlag b s) := by
  unfold reportFlag
  split
  · exact .refl s
  · exact (evaluateAll_step s).part

theorem becomeIncompatible_part (p : StationId) (s : State) : PartStep s (becomeIncompatible p s) :=
  ((((putPeer_part ..).trans (post_step ..).part).trans (refreshIsolated_part ..)).trans
    (reportPeerState_step ..).part).trans (reportFlag_part ..)

theorem takeMismatch_part (p : StationId) (s : State) : PartStep s (takeMismatch p s) := by
  unfold takeMismatch
  split
  · exact putPeer_part ..
  · exact becomeIncompatible_part ..

theorem arrive_part (p : StationId) (b : FrameBody) (s : State) : PartStep s (arrive p b s) := by
  simp only [arrive]
  split
  · exact (putPeer_part ..).trans (requestStatus_step _).part
  · exact putPeer_part ..

theorem becomeLive_part (p : StationId) (s : State) : PartStep s (becomeLive p s) :=
  ((putPeer_part ..).trans (post_step ..).part).trans (refreshIsolated_part ..)

theorem stateStep_part (p : StationId) (b : FrameBody) (f : Bool) (s : State) : PartStep s (stateStep p b f s) := by
  simp only [stateStep]
  split
  · split
    · exact becomeLive_part ..
    · exact putPeer_part ..
  · exact .refl s
  · exact .refl s
  · exact arrive_part ..
  · exact arrive_part ..
  · exact arrive_part ..

theorem deliver_step (p : StationId) (b : FrameBody) (marks : Table Bool) (s : State) :
    OwnerStep s (deliver p b marks s) := by
  unfold deliver
  split
  · exact receiveStatus_step ..
  · exact receiveClaim_step ..
  · exact foldl_step (fun s x => receiveRelease_step p x s) ..
  · exact foldl_step (fun s x => receiveObject_step p x s) ..

theorem depart_part (p : StationId) (s : State) : PartStep s (depart p s) :=
  ((((putPeer_part ..).trans (post_step ..).part).trans (refreshIsolated_part ..)).trans
    (reportDeparture_step ..).part).trans (reportFlag_part ..)

theorem replaceData_part (p : StationId) (b : FrameBody) (s : State) : PartStep s (replaceData p b s) := by
  unfold replaceData
  split
  · exact putPeer_part ..
  · exact .refl s
  · exact .refl s
  · exact .refl s

theorem reportChange_part (p : StationId) (c f : Bool) (s : State) : PartStep s (reportChange p c f s) := by
  unfold reportChange
  split
  · exact (reportPeerState_step ..).part.trans (reportFlag_part ..)
  · exact .refl s

theorem departIfLeaving_part (p : StationId) (b : FrameBody) (s : State) : PartStep s (departIfLeaving p b s) := by
  unfold departIfLeaving
  split
  · exact depart_part ..
  · exact .refl s

theorem takeData_part (p : StationId) (b : FrameBody) (f : Bool) (s : State) : PartStep s (takeData p b f s) :=
  ((((stateStep_part ..).trans (replaceData_part ..)).trans (reportChange_part ..)).trans
    (deliver_step ..).part).trans (departIfLeaving_part ..)

theorem takeFrame_part (f : Frame) (s : State) : PartStep s (takeFrame f s) := by
  unfold takeFrame
  dsimp only
  split
  · exact (putPeer_part ..).trans (takeMismatch_part ..)
  · split
    · exact (putPeer_part ..).trans (putPeer_part ..)
    · exact ((putPeer_part ..).trans (putPeer_part ..)).trans (takeData_part ..)

theorem announceSilence_part (p : StationId) (a : Bool) (s : State) : PartStep s (announceSilence p a s) := by
  unfold announceSilence
  split
  · exact (post_step ..).part
  · exact .refl s

theorem becomeSilent_part (p : StationId) (a : Bool) (s : State) : PartStep s (becomeSilent p a s) :=
  ((((putPeer_part ..).trans (announceSilence_part ..)).trans (refreshIsolated_part ..)).trans
    (reportPeerState_step ..).part).trans (reportFlag_part ..)

theorem silenceRunsOut_part (p : StationId) (s : State) : PartStep s (silenceRunsOut p s) := by
  unfold silenceRunsOut
  split
  · exact becomeSilent_part ..
  · exact becomeSilent_part ..
  · exact (putPeer_part ..).trans (reportPeerState_step ..).part
  · exact .refl s
  · exact .refl s
  · exact .refl s

/-! ## Station Controller -/

theorem changePhase_part (p : Phase) {f : State → State} (h : ∀ s, PartStep s (f s)) (s : State) :
    PartStep s (changePhase p f s) := ((setPhase_part p s).trans (h _)).trans (post_step ..).part

theorem startStation_part (s : State) : PartStep s (startStation s) :=
  (((((withStation_part ..).trans (withRx_part ..)).trans (enqueue_part TxQueue.addStatus _)).trans
    (forEach_part listenEntry_part _)).trans (takeNext_step _).part).trans (post_step ..).part

theorem enterActive_part (s : State) : PartStep s (enterActive s) :=
  (withStation_part ..).trans (changePhase_part .active (fun _ =>
    ((refreshIsolated_part ..).trans (evaluateAll_step _).part).trans (reportFlag_part ..)) _)

theorem statusPeriod_part (s : State) : PartStep s (statusPeriod s) :=
  (withStation_part ..).trans (requestStatus_step _).part

theorem leaveTransmitter_part (xs : List ReleaseEntry) (s : State) : PartStep s (leaveTransmitter xs s) := by
  simp only [leaveTransmitter]
  exact (withTx_part ..).trans (takeNext_step _).part

theorem leaveBlocks_part (s : State) : PartStep s (leaveBlocks s) := by
  have h := leaveEntries_step allSixteen (stopTimers s)
  unfold leaveBlocks
  generalize leaveEntries allSixteen (stopTimers s) = r at h ⊢
  exact (((stopTimers_part s).trans h.part).trans (leaveTransmitter_part ..)).trans (refreshIsolated_part ..)

theorem leaveStation_part (s : State) : PartStep s (leaveStation s) := changePhase_part .leaving leaveBlocks_part s

theorem frameFinished_part (s : State) : PartStep s (frameFinished s) := by
  unfold frameFinished
  split
  · exact changePhase_part .detached (fun s => .refl s) s
  · exact .refl s

theorem muteTransmitter_part (s : State) : PartStep s (muteTransmitter s) := by
  unfold muteTransmitter
  split
  · exact withTx_part ..
  · exact withTx_part ..

theorem muteStation_part (c : MuteCause) (s : State) : PartStep s (muteStation c s) :=
  (((((setPhase_part ..).trans (stopTimers_part _)).trans (forEach_step muteEntry_step _).part).trans
    (muteTransmitter_part _)).trans (refreshIsolated_part ..)).trans (post_step ..).part

theorem requestMuted_part (c : MuteCause) (s : State) : PartStep s (requestMuted c s) := by
  unfold requestMuted
  split
  · exact muteStation_part ..
  · exact .refl s

/-- A table with every entry VACANT and every drive off agrees with itself. -/
theorem resetOwnership_drives (now : Word16) (n : Service) :
    look (resetOwnership now).drv n = decide ((look (resetOwnership now).entries n).state = .held) := by
  simp [resetOwnership, resetEntry]

theorem restartStation_part (s : State) : PartStep s (restartStation s) := by
  unfold restartStation
  refine .trans ?_ (post_step ..).part
  exact ⟨rfl, fun _ n => resetOwnership_drives _ n, id⟩

theorem resetHostPort_sound : resetHostPort.Sound := ⟨rfl, by decide, fun h => absurd rfl h⟩

theorem resetBlocks_part (id : StationId) (low : Bool) (s : State) : PartStep s (resetBlocks id low s) :=
  ⟨rfl, fun _ n => resetOwnership_drives _ n, fun _ => resetHostPort_sound⟩

theorem hardReset_part (rst : RstLevel) (s : State) : PartStep s (hardReset rst s) := by
  cases rst <;> exact resetBlocks_part ..

/-! ## Transmitter -/

theorem finishFrame_part (s : State) : PartStep s (finishFrame s) :=
  (((withTx_part ..).trans (frameFinished_part _)).trans (withTx_part ..)).trans (takeNext_step _).part

theorem beginAttempt_part (f : Flight) (b : FrameBody) (s : State) : PartStep s (beginAttempt f b s) :=
  withTx_part ..

theorem attemptStart_part (s : State) : PartStep s (attemptStart s) := by
  unfold attemptStart
  split
  · split
    · split
      · exact beginAttempt_part ..
      · exact finishFrame_part ..
    · exact .refl s
  · exact .refl s

theorem dropMuted_part (s : State) : PartStep s (dropMuted s) := .elsewhere rfl rfl rfl

theorem backOff_part (k : Nat) (s : State) : PartStep s (backOff k s) := .elsewhere rfl rfl rfl

theorem giveUp_part (f : Flight) (s : State) : PartStep s (giveUp f s) := by
  simp only [giveUp]
  split
  · exact (((withTx_part ..).trans (post_step ..).part).trans (claimGivenUp_step ..).part).trans (finishFrame_part _)
  · exact ((withTx_part ..).trans (post_step ..).part).trans (finishFrame_part _)
  · exact ((withTx_part ..).trans (post_step ..).part).trans (finishFrame_part _)
  · exact ((withTx_part ..).trans (post_step ..).part).trans (finishFrame_part _)

theorem endClean_part (f : Flight) (s : State) : PartStep s (endClean f s) := by
  simp only [endClean]
  split
  · exact (withTx_part ..).trans (dropMuted_part _)
  · split
    · exact ((withTx_part ..).trans (claimSentClean_step ..).part).trans (finishFrame_part _)
    · exact (withTx_part ..).trans (finishFrame_part _)
    · exact (withTx_part ..).trans (finishFrame_part _)
    · exact (withTx_part ..).trans (finishFrame_part _)

theorem endCollided_part (f : Flight) (s : State) : PartStep s (endCollided f s) := by
  simp only [endCollided]
  split
  · exact (withTx_part ..).trans (dropMuted_part _)
  · split
    · exact (withTx_part ..).trans (backOff_part ..)
    · exact (withTx_part ..).trans (giveUp_part ..)

theorem endDeaf_part (f : Flight) (s : State) : PartStep s (endDeaf f s) := by
  simp only [endDeaf]
  split
  · exact (withTx_part ..).trans (dropMuted_part _)
  · split
    · exact ((withTx_part ..).trans (withTx_part ..)).trans (requestMuted_part ..)
    · split
      · exact (withTx_part ..).trans (backOff_part ..)
      · exact (withTx_part ..).trans (giveUp_part ..)

theorem attemptClean_part (s : State) : PartStep s (attemptClean s) := by
  unfold attemptClean
  split
  · exact (withRx_part ..).trans (endClean_part ..)
  · exact .refl s

theorem attemptDeaf_part (s : State) : PartStep s (attemptDeaf s) := by
  unfold attemptDeaf
  split
  · exact endDeaf_part ..
  · exact .refl s

/-! ## The line -/

theorem idClash_part (s : State) : PartStep s (idClash s) := by
  simp only [idClash]
  exact ((withPeers_part ..).trans (post_step ..).part).trans (requestMuted_part ..)

theorem routeFrame_part (f : Frame) (s : State) : PartStep s (routeFrame f s) := by
  unfold routeFrame
  split
  · split
    · exact .refl s
    · exact idClash_part s
  · exact takeFrame_part ..

theorem frameEnds_part (c : List Bool) (past : Bool) (r : Receiver) (s : State) : PartStep s (frameEnds c past r s) := by
  simp only [frameEnds]
  split
  · exact (withRx_part ..).trans (routeFrame_part ..)
  · exact withRx_part ..
  · exact withRx_part ..

theorem passBits_part (k : Nat) (s : State) : PartStep s (passBits k s) := by
  unfold passBits
  split
  · exact withTx_part ..
  · exact .refl s

theorem collidedWith_part (f : Flight) (r : Receiver) (ev : LineEvent) (s : State) :
    PartStep s (collidedWith f r ev s) := by
  unfold collidedWith
  split
  · dsimp only
    split
    · split
      · exact (withRx_part ..).trans (endCollided_part ..)
      · exact ((withRx_part ..).trans (endCollided_part ..)).trans (takeFrame_part ..)
    · exact (withRx_part ..).trans (endCollided_part ..)
    · exact (withRx_part ..).trans (endCollided_part ..)
  · exact (withRx_part ..).trans (endCollided_part ..)
  · exact (withRx_part ..).trans (endCollided_part ..)
  · exact (withRx_part ..).trans (endCollided_part ..)

theorem attemptCollided_part (line : List Symbol) (s : State) : PartStep s (attemptCollided line s) := by
  unfold attemptCollided
  split
  · split
    · exact collidedWith_part ..
    · exact .refl s
  · exact .refl s

theorem frameReceived_part (line : List Symbol) (s : State) : PartStep s (frameReceived line s) := by
  unfold frameReceived
  split
  · exact .refl s
  · split
    · split
      · exact attemptClean_part s
      · exact collidedWith_part ..
      · exact .refl s
    · split
      · exact (passBits_part ..).trans (frameEnds_part ..)
      · exact .refl s

theorem codeError_part (line : List Symbol) (s : State) : PartStep s (codeError line s) := by
  unfold codeError
  split
  · exact .refl s
  · split
    · split
      · exact collidedWith_part ..
      · exact .refl s
    · split
      · exact (passBits_part ..).trans (withRx_part ..)
      · exact .refl s

theorem lineIdle_part (line : List Symbol) (s : State) : PartStep s (lineIdle line s) := by
  unfold lineIdle
  split
  · exact .refl s
  · split
    · exact (passBits_part ..).trans (withRx_part ..)
    · exact .refl s

theorem backOffEnd_part (line : List Symbol) (s : State) : PartStep s (backOffEnd line s) := by
  unfold backOffEnd
  split
  · split
    · exact (withRx_part ..).trans (withTx_part ..)
    · exact (withRx_part ..).trans (withTx_part ..)
    · exact .refl s
  · exact .refl s

/-! ## Host Port -/

theorem popEvent_part (s : State) : PartStep s (popEvent s) := by
  unfold popEvent
  split
  · exact .atHost rfl rfl rfl rfl rfl rfl
  · next e rest he =>
    split
    · next hl =>
      refine ⟨rfl, fun h => h, fun ⟨_, b, _⟩ => ⟨rfl, ?_, ?_⟩⟩
      · simp [HostPort.refreshIrq]
        rw [he] at b; simp at b; omega
      · intro hne; exact absurd hl hne
    · refine ⟨rfl, fun h => h, fun ⟨_, b, _⟩ => ⟨rfl, ?_, ?_⟩⟩
      · simp [HostPort.refreshIrq]
        rw [he] at b; simpa using b
      · intro hne; exact absurd rfl hne

theorem writePlanSelect_part (v : Byte) (s : State) : PartStep s (writePlanSelect v s) := by
  unfold writePlanSelect
  split
  · exact .atHost rfl rfl rfl rfl rfl rfl
  · exact setResult_part ..

theorem writePlanField_part (f : PlanField) (v : Byte) (s : State) : PartStep s (writePlanField f v s) := by
  unfold writePlanField
  dsimp only
  split
  · exact setResult_part ..
  · split
    · exact setResult_part ..
    · refine .trans ?_ (reform_part ..)
      exact .atHost rfl rfl rfl rfl rfl rfl

theorem clearCounters_part (s : State) : PartStep s (clearCounters s) :=
  (((withRx_part ..).trans (withTx_part ..)).trans (withPeers_part ..)).trans (setResult_part ..)

theorem runCommand_part (c : Command) (s : State) : PartStep s (runCommand c s) := by
  cases c with
  | start =>
    simp only [runCommand, commandStart]
    split
    · exact (startStation_part s).trans (setResult_part ..)
    · exact setResult_part ..
  | leave =>
    simp only [runCommand, commandLeave]
    split
    · exact (leaveStation_part s).trans (setResult_part ..)
    · exact setResult_part ..
  | restart => exact (restartStation_part s).trans (setResult_part ..)
  | force => exact operatorRequest_part ..
  | lockout => exact operatorRequest_part ..
  | clear => exact operatorRequest_part ..
  | clearCounters => exact clearCounters_part s

theorem fetchPop_part (s : State) : PartStep s (fetchPop s) := by
  unfold fetchPop
  dsimp only
  refine .trans (.trans (popEvent_part s) ?_) (moveAddress_part ..)
  exact .atHost rfl rfl rfl rfl rfl rfl

theorem fetchByte_part (a : HostAddress) (s : State) : PartStep s (fetchByte a s) := by
  unfold fetchByte
  split
  · exact fetchPop_part s
  · refine .trans ?_ (moveAddress_part ..)
    exact .atHost rfl rfl rfl rfl rfl rfl

/-- A byte clocked at an address does what the action of a write does, or fetches a byte (R147). -/
theorem dataByte_part (a : HostAddress) {take : State → State} (h : ∀ s, PartStep s (take s)) (s : State) :
    PartStep s (dataByte a take s) := by
  unfold dataByte
  split
  · split
    · exact (h s).trans (moveAddress_part ..)
    · exact .refl s
  · split
    · exact fetchByte_part ..
    · exact .refl s
  · exact .refl s
  · exact .refl s

theorem takeCommand_part (c : Command) (s : State) : PartStep s (takeCommand c s) :=
  dataByte_part _ (fun _ => (storeCode_part ..).trans (runCommand_part c _)) s

theorem writeCode_part (v : Byte) (s : State) : PartStep s (writeCode v s) := by
  unfold writeCode
  split
  · exact (storeCode_part ..).trans (runCommand_part ..)
  · exact (storeCode_part ..).trans (setResult_part ..)

theorem selectService_part (v : Byte) (s : State) : PartStep s (selectService v s) := by
  unfold selectService
  split
  · exact .atHost rfl rfl rfl rfl rfl rfl
  · exact setResult_part ..

theorem selectPeer_part (v : Byte) (s : State) : PartStep s (selectPeer v s) := by
  unfold selectPeer
  split
  · exact .atHost rfl rfl rfl rfl rfl rfl
  · exact setResult_part ..

theorem selectCounter_part (v : Byte) (s : State) : PartStep s (selectCounter v s) := by
  unfold selectCounter
  split
  · exact .atHost rfl rfl rfl rfl rfl rfl
  · exact setResult_part ..

theorem writeIrqControl_part (r : IrqRegister) (v : Byte) (s : State) : PartStep s (writeIrqControl r v s) := by
  cases r with
  | enable => exact ⟨rfl, fun h => h, fun ⟨_, b, c⟩ => ⟨rfl, b, c⟩⟩
  | classMask => exact .atHost rfl rfl rfl rfl rfl rfl

theorem writeByte_part (a : BitVec 7) (v : Byte) (s : State) : PartStep s (writeByte a v s) := by
  unfold writeByte
  split
  · exact .atHost rfl rfl rfl rfl rfl rfl
  · exact writeCode_part ..
  · exact writeIrqControl_part ..
  · exact writeIrqControl_part ..
  · exact writePlanSelect_part ..
  · exact writePlanField_part ..
  · exact writePlanField_part ..
  · exact writePlanField_part ..
  · exact writePlanField_part ..
  · exact writePlanField_part ..
  · exact writePlanField_part ..
  · exact selectService_part ..
  · exact selectCounter_part ..
  · exact selectPeer_part ..
  · exact .refl s

theorem registerWrite_part (a : HostAddress) (v : Byte) (s : State) : PartStep s (registerWrite a v s) := by
  refine dataByte_part _ (fun s => ?_) s
  unfold writeAddress
  split
  · exact writeByte_part ..
  · exact .refl s

theorem beginTransaction_part (s : State) : PartStep s (beginTransaction s) := by
  unfold beginTransaction
  split
  · split
    · exact .refl s
    · exact .atHost rfl rfl rfl rfl rfl rfl
  · exact .refl s
  · exact .refl s

theorem takeAddress_part (v : Byte) (s : State) : PartStep s (takeAddress v s) := by
  unfold takeAddress
  split
  · exact .atHost rfl rfl rfl rfl rfl rfl
  · exact .refl s
  · exact .refl s

theorem endTransaction_part (s : State) : PartStep s (endTransaction s) := .atHost rfl rfl rfl rfl rfl rfl

/-! ## Time and pins -/

theorem tick_part (s : State) : PartStep s (tick s) :=
  ⟨rfl, fun h n => by have := h n; unfold State.entry at this; simp only [tick, State.entry, look_tabulate, ServiceEntry.tick]; exact this, fun h => h⟩

theorem timebaseTick_part (s : State) : PartStep s (timebaseTick s) := by
  unfold timebaseTick
  split
  · exact .refl s
  · exact tick_part s

theorem setPins_part (n : Service) (sf sd : Bool) (s : State) : PartStep s (setPins n sf sd s) := by
  unfold setPins
  dsimp only
  split
  · exact (putCondition_part ..).trans (rawChanged_part ..)
  · exact putCondition_part ..

theorem conditionRunsOut_part (n : Service) (s : State) : PartStep s (conditionRunsOut n s) := by
  unfold conditionRunsOut
  split
  · exact debounce_part ..
  · exact .refl s

theorem wtrRunsOut_step (n : Service) (s : State) : OwnerStep s (wtrRunsOut n s) := by
  unfold wtrRunsOut
  split
  · split
    · exact (putEntry_step ..).trans (evaluate_step ..)
    · exact .refl s
  · exact .refl s

theorem retryRunsOut_step (n : Service) (s : State) : OwnerStep s (retryRunsOut n s) := by
  unfold retryRunsOut
  split
  · exact (putEntry_step ..).trans (evaluate_step ..)
  · exact .refl s

theorem windowRunsOut_step (n : Service) (s : State) : OwnerStep s (windowRunsOut n s) := by
  unfold windowRunsOut
  split
  · split
    · exact endWindow_step ..
    · exact .refl s
  · exact .refl s

theorem peerTimerRunsOut_part (p : StationId) (s : State) : PartStep s (peerTimerRunsOut p s) := by
  unfold peerTimerRunsOut
  split
  · exact silenceRunsOut_part ..
  · exact .refl s

theorem listenRunsOut_part (s : State) : PartStep s (listenRunsOut s) := by
  unfold listenRunsOut
  split
  · exact enterActive_part s
  · exact .refl s

theorem statusRunsOut_part (s : State) : PartStep s (statusRunsOut s) := by
  unfold statusRunsOut
  split
  · exact statusPeriod_part s
  · exact .refl s

end Sys2Proof.Machine
end

