-- ==== Sys2Proof/Laws/Table.lean ====
section
/-! SUPPORT. What it means for a Service Table entry to agree with the rest, one equivalence for each entry state, so that
no proof unfolds `ServiceEntry.Agrees`. -/

namespace Sys2Proof.Machine

theorem entryAgrees_vacant {s : State} {n : Service} (h : (s.entry n).state = .vacant) :
    s.EntryAgrees n ↔ (s.entry n).owner = none ∧ (s.entry n).record = none := by
  simp only [State.EntryAgrees, ServiceEntry.Agrees, h]

theorem entryAgrees_held {s : State} {n : Service} (h : (s.entry n).state = .held) :
    s.EntryAgrees n ↔
      (s.entry n).owner = some s.station.ownId ∧ (s.entry n).record = none ∧ s.MayHold n := by
  simp only [State.EntryAgrees, ServiceEntry.Agrees, h]

theorem entryAgrees_remote {s : State} {n : Service} (h : (s.entry n).state = .remote) :
    s.EntryAgrees n ↔
      (s.entry n).record = none ∧ ∃ p, (s.entry n).owner = some p ∧ p ≠ s.station.ownId ∧ s.isLive p = true := by
  simp only [State.EntryAgrees, ServiceEntry.Agrees, h]

theorem entryAgrees_orphaned {s : State} {n : Service} (h : (s.entry n).state = .orphaned) :
    s.EntryAgrees n ↔
      (s.entry n).record = none ∧ ∃ p, (s.entry n).owner = some p ∧ p ≠ s.station.ownId ∧ s.isLive p = false := by
  simp only [State.EntryAgrees, ServiceEntry.Agrees, h]

theorem entryAgrees_claiming {s : State} {n : Service} (h : (s.entry n).state = .claiming) :
    s.EntryAgrees n ↔
      (s.entry n).owner ≠ some s.station.ownId ∧ s.MayHold n ∧
        ∃ r, (s.entry n).record = some r ∧ r.claimant = s.station.ownId ∧ r.Fit ∧ r.OwnTimes := by
  simp only [State.EntryAgrees, ServiceEntry.Agrees, h]

theorem entryAgrees_watching {s : State} {n : Service} (h : (s.entry n).state = .watching) :
    s.EntryAgrees n ↔
      (s.entry n).owner ≠ some s.station.ownId ∧
        ∃ r, (s.entry n).record = some r ∧ r.claimant ≠ s.station.ownId ∧ s.isLive r.claimant = true ∧ r.Fit ∧
          r.WatchedTimes := by
  simp only [State.EntryAgrees, ServiceEntry.Agrees, h]

/-- An entry agrees whenever its own content and what it is held against are the same. -/
theorem EntryAgrees.congr {s t : State} {n : Service} (he : t.entry n = s.entry n)
    (ho : t.station.ownId = s.station.ownId) (hl : ∀ p, t.isLive p = s.isLive p) (hm : s.MayHold n → t.MayHold n)
    (h : s.EntryAgrees n) : t.EntryAgrees n := by
  have hl' : t.isLive = s.isLive := funext hl
  revert h
  unfold State.EntryAgrees ServiceEntry.Agrees
  rw [he, ho, hl']
  cases (s.entry n).state <;> simp only
  · exact id
  · exact fun h => ⟨h.1, h.2.1, hm h.2.2⟩
  · exact id
  · exact id
  · exact fun h => ⟨h.1, hm h.2.1, h.2.2⟩
  · exact id

end Sys2Proof.Machine
end

