-- ==== Sys2Proof/Laws/Transmitter.lean ====
section
/-! SUPPORT. What the actions of every block keep of the Transmitter (Table 9-1, R131, R135, R143, R144). -/

namespace Sys2Proof.Machine

/-- An action after which the Transmitter may still have a head to take. -/
structure CoreStep (s t : State) : Prop where
  core : s.TxCore → t.TxCore
  halted : t.tx.state = .halted → s.tx.state = .halted

/-- An action after which the Transmitter has taken every head it may take. -/
structure TxStep (s t : State) : Prop extends CoreStep s t where
  drained : s.TxCore → s.Drained → t.Drained

namespace CoreStep
protected theorem refl (s : State) : CoreStep s s := ⟨id, id⟩
protected theorem trans {s t u : State} (h : CoreStep s t) (k : CoreStep t u) : CoreStep s u :=
  ⟨k.core ∘ h.core, h.halted ∘ k.halted⟩
end CoreStep

namespace TxStep
protected theorem refl (s : State) : TxStep s s := ⟨.refl s, fun _ => id⟩
protected theorem trans {s t u : State} (h : TxStep s t) (k : TxStep t u) : TxStep s u :=
  ⟨h.toCoreStep.trans k.toCoreStep, fun hc hd => k.drained (h.core hc) (h.drained hc hd)⟩

/-- An action that leaves the Transmitter and the phase alone. -/
protected theorem away {s t : State} (ht : t.tx = s.tx) (hp : t.station.phase = s.station.phase) : TxStep s t :=
  ⟨⟨fun h => h.congr ht hp, fun h => by rw [ht] at h; exact h⟩, fun _ h => by unfold State.Drained; rw [ht]; exact h⟩

theorem consistent {s t : State} (h : TxStep s t) (hs : s.TxConsistent) : t.TxConsistent :=
  ⟨h.core hs.toTxCore, fun e => hs.halted (h.halted e), h.drained hs.toTxCore hs.drained⟩
end TxStep

theorem withPeers_txStep (s : State) (x : PeerMonitor) : TxStep s (s.withPeers x) := .away rfl rfl

theorem withRx_txStep (s : State) (x : Receiver) : TxStep s (s.withRx x) := .away rfl rfl

theorem withHost_txStep (s : State) (x : HostPort) : TxStep s (s.withHost x) := .away rfl rfl

theorem withStation_txStep (s : State) (x : StationController) (h : x.phase = s.station.phase) :
    TxStep s (s.withStation x) := .away rfl h

theorem OwnerStep.txStep {s t : State} (h : OwnerStep s t) : TxStep s t := ⟨⟨h.core, h.halted⟩, h.drained⟩

/-- Taking the head makes up for an action that queued without taking. -/
theorem CoreStep.thenTake {s t : State} (h : CoreStep s t) : TxStep s (takeNext t) :=
  ⟨h.trans (takeNext_step t).txStep.toCoreStep, fun hc _ => (takeNext_core (h.core hc)).2⟩

theorem forEach_core {f : Fin 16 → State → State} (h : ∀ n s, CoreStep s (f n s)) (s : State) :
    CoreStep s (forEach f s) := by
  unfold forEach
  induction allSixteen generalizing s with
  | nil => exact .refl s
  | cons n rest ih => exact (h n s).trans (ih _)

theorem enqueue_coreStep {f : TxQueue → TxQueue} (hf : ∀ q, q.Limited → (f q).Limited) (s : State) :
    CoreStep s (enqueue f s) := ⟨enqueue_core hf, fun h => by rw [enqueue_fields] at h; exact h⟩

theorem reportStatus_core (s : State) : CoreStep s (reportStatus s) := by
  unfold reportStatus
  split
  · exact enqueue_coreStep (fun _ h => h.addStatus) s
  · exact .refl s

theorem putCondition_txStep (n : Service) (c : ServiceCondition) (s : State) : TxStep s (putCondition n c s) :=
  .away rfl rfl

theorem putPeer_txStep (p : StationId) (e : PeerEntry) (s : State) : TxStep s (putPeer p e s) := .away rfl rfl

theorem takeReport_core (n : Service) (old : ServiceCondition) (s : State) : CoreStep s (takeReport n old s) :=
  ((((evaluate_step ..).trans (withdrawIfDue_step ..)).trans (releaseIfLocked_step ..)).txStep.toCoreStep).trans
    (reportStatus_core _)

theorem updateCondition_core (n : Service) (c : ServiceCondition) (s : State) :
    CoreStep s (updateCondition n c s) := by
  have h : CoreStep s (reform n (putCondition n c s)) :=
    ((putCondition_txStep ..).trans (putCondition_txStep ..)).toCoreStep
  simp only [updateCondition]
  split
  · exact h
  · exact (h.trans (postGrade_step ..).txStep.toCoreStep).trans (takeReport_core ..)

theorem debounce_txStep (n : Service) (s : State) : TxStep s (debounce n s) := (updateCondition_core ..).thenTake

theorem rawChanged_txStep (n : Service) (s : State) : TxStep s (rawChanged n s) := by
  simp only [rawChanged]
  split
  · exact putCondition_txStep ..
  · split
    · split
      · exact debounce_txStep ..
      · exact putCondition_txStep ..
    · exact putCondition_txStep ..

theorem setResult_txStep (r : CommandResult) (s : State) : TxStep s (setResult r s) := .away rfl rfl

theorem operatorRequest_txStep (r : Request) (b : Bool) (s : State) : TxStep s (operatorRequest r b s) := by
  unfold operatorRequest
  split
  · exact ((setResult_txStep ..).toCoreStep.trans (updateCondition_core ..)).thenTake
  · exact setResult_txStep ..

theorem refreshIsolated_txStep (j : Option StationId) (s : State) : TxStep s (refreshIsolated j s) := by
  simp only [refreshIsolated]
  split
  · exact .refl s
  · split
    · exact (withPeers_txStep ..).trans (post_step ..).txStep
    · split
      · exact (withPeers_txStep ..).trans (post_step ..).txStep
      · exact (withPeers_txStep ..).trans (post_step ..).txStep

theorem reportFlag_txStep (b : Bool) (s : State) : TxStep s (reportFlag b s) := by
  unfold reportFlag
  split
  · exact .refl s
  · exact (evaluateAll_step s).txStep

theorem becomeIncompatible_txStep (p : StationId) (s : State) : TxStep s (becomeIncompatible p s) :=
  ((((putPeer_txStep ..).trans (post_step ..).txStep).trans (refreshIsolated_txStep ..)).trans
    (reportPeerState_step ..).txStep).trans (reportFlag_txStep ..)

theorem takeMismatch_txStep (p : StationId) (s : State) : TxStep s (takeMismatch p s) := by
  unfold takeMismatch
  split
  · exact putPeer_txStep ..
  · exact becomeIncompatible_txStep ..

theorem arrive_txStep (p : StationId) (b : FrameBody) (s : State) : TxStep s (arrive p b s) := by
  simp only [arrive]
  split
  · exact (putPeer_txStep ..).trans (requestStatus_step _).txStep
  · exact putPeer_txStep ..

theorem stateStep_txStep (p : StationId) (b : FrameBody) (f : Bool) (s : State) : TxStep s (stateStep p b f s) := by
  simp only [stateStep]
  split
  · split
    · exact ((putPeer_txStep ..).trans (post_step ..).txStep).trans (refreshIsolated_txStep ..)
    · exact putPeer_txStep ..
  · exact .refl s
  · exact .refl s
  · exact arrive_txStep ..
  · exact arrive_txStep ..
  · exact arrive_txStep ..

theorem replaceData_txStep (p : StationId) (b : FrameBody) (s : State) : TxStep s (replaceData p b s) := by
  unfold replaceData
  split
  · exact putPeer_txStep ..
  · exact .refl s
  · exact .refl s
  · exact .refl s

theorem reportChange_txStep (p : StationId) (c f : Bool) (s : State) : TxStep s (reportChange p c f s) := by
  unfold reportChange
  split
  · exact (reportPeerState_step ..).txStep.trans (reportFlag_txStep ..)
  · exact .refl s

theorem depart_txStep (p : StationId) (s : State) : TxStep s (depart p s) :=
  ((((putPeer_txStep ..).trans (post_step ..).txStep).trans (refreshIsolated_txStep ..)).trans
    (reportDeparture_step ..).txStep).trans (reportFlag_txStep ..)

theorem departIfLeaving_txStep (p : StationId) (b : FrameBody) (s : State) : TxStep s (departIfLeaving p b s) := by
  unfold departIfLeaving
  split
  · exact depart_txStep ..
  · exact .refl s

theorem takeData_txStep (p : StationId) (b : FrameBody) (f : Bool) (s : State) : TxStep s (takeData p b f s) :=
  ((((stateStep_txStep ..).trans (replaceData_txStep ..)).trans (reportChange_txStep ..)).trans
    (deliver_step ..).txStep).trans (departIfLeaving_txStep ..)

theorem takeFrame_txStep (f : Frame) (s : State) : TxStep s (takeFrame f s) := by
  simp only [takeFrame]
  split
  · exact (putPeer_txStep ..).trans (takeMismatch_txStep ..)
  · split
    · exact (putPeer_txStep ..).trans (putPeer_txStep ..)
    · exact ((putPeer_txStep ..).trans (putPeer_txStep ..)).trans (takeData_txStep ..)

theorem becomeSilent_txStep (p : StationId) (a : Bool) (s : State) : TxStep s (becomeSilent p a s) := by
  unfold becomeSilent announceSilence
  split
  · exact (((((putPeer_txStep ..).trans (post_step ..).txStep).trans (refreshIsolated_txStep ..)).trans
      (reportPeerState_step ..).txStep)).trans (reportFlag_txStep ..)
  · exact ((((putPeer_txStep ..).trans (refreshIsolated_txStep ..)).trans (reportPeerState_step ..).txStep)).trans
      (reportFlag_txStep ..)

theorem silenceRunsOut_txStep (p : StationId) (s : State) : TxStep s (silenceRunsOut p s) := by
  unfold silenceRunsOut
  split
  · exact becomeSilent_txStep ..
  · exact becomeSilent_txStep ..
  · exact (putPeer_txStep ..).trans (reportPeerState_step ..).txStep
  · exact .refl s
  · exact .refl s
  · exact .refl s

/-! ## Phase changes -/

/-- A phase in which the Transmitter may send takes nothing from its consistency. -/
theorem setPhase_txStep {p : Phase} (hp : p.sends = true) (s : State) : TxStep s (setPhase p s) := by
  refine ⟨⟨fun h => ⟨h.flight, h.agrees, h.backOff, h.deaf, h.queue, fun hs => ?_⟩, id⟩, fun _ => id⟩
  rw [setPhase_phase, hp] at hs; cases hs

theorem enterActive_txStep (s : State) : TxStep s (enterActive s) := by
  refine (withStation_txStep s { s.station with listenTimer := none } rfl).trans ?_
  refine (setPhase_txStep (p := .active) rfl _).trans ?_
  exact ((refreshIsolated_txStep ..).trans ((evaluateAll_step _).txStep.trans (reportFlag_txStep ..))).trans
    (post_step ..).txStep

theorem statusPeriod_txStep (s : State) : TxStep s (statusPeriod s) :=
  (withStation_txStep s { s.station with statusTimer := some Config.statusPeriod } rfl).trans
    (requestStatus_step _).txStep

/-- START: the first STATUS is queued, and the Transmitter takes it last (R106, R144). -/
theorem startStation_txStep (s : State) : TxStep s (startStation s) := by
  refine .trans (CoreStep.thenTake (.trans (.trans ?_ (enqueue_coreStep (fun _ h => h.addStatus) _))
    (forEach_core (fun _ _ => updateCondition_core ..) _))) (post_step ..).txStep
  exact ⟨fun h => ⟨h.flight, h.agrees, h.backOff, h.deaf, h.queue, fun hs => by simp [Phase.sends] at hs⟩, id⟩

theorem leaveTransmitter_txStep (xs : List ReleaseEntry) (s : State) (hs : s.station.phase.sends = true) :
    TxStep s (leaveTransmitter xs s) := by
  simp only [leaveTransmitter]
  refine CoreStep.thenTake ⟨fun h => ?_, ?_⟩
  · have hq := ((h.queue.dropClaims).addReleases xs).addStatus
    cases hf : s.tx.flight with
    | none =>
      refine ⟨?_, ?_, h.backOff, h.deaf, hq, fun hn => by rw [withTx_station, hs] at hn; cases hn⟩
      · simpa [hf] using h.flight
      · simp
    | some f =>
      by_cases hd : f.frame = .status ∧ f.attempts = 0
      · simp only [hd, and_self, if_true]
        refine ⟨by simp, by simp, ?_, h.deaf, hq, fun hn => by rw [withTx_station, hs] at hn; cases hn⟩
        have ha := h.agrees f hf
        have hb : s.tx.state ≠ .backingOff := by
          intro e
          have := (ha.backingOff e).1
          omega
        simp only [withTx_tx]
        constructor
        · intro hne; exact absurd (h.backOff.mp hne) hb
        · intro hne; cases hne
      · simp only [hd, if_false]
        exact ⟨by simpa [hf] using h.flight, fun g hg => h.agrees g (by rw [hf]; simpa using hg), h.backOff, h.deaf, hq,
          fun hn => by rw [withTx_station, hs] at hn; cases hn⟩
  · split
    · split
      · intro h; cases h
      · exact id
    · exact id

/-- The blocks' part of LEAVE up to the phase (R111, R144). -/
theorem leaveStation_txStep (s : State) : TxStep s (leaveStation s) := by
  refine (setPhase_txStep (p := .leaving) rfl s).trans (.trans ?_ (post_step ..).txStep)
  show TxStep (setPhase .leaving s) (leaveBlocks (setPhase .leaving s))
  simp only [leaveBlocks]
  have h0 : TxStep (setPhase .leaving s) (stopTimers (setPhase .leaving s)) := .away rfl rfl
  have h1 := leaveEntries_step allSixteen (stopTimers (setPhase .leaving s))
  generalize leaveEntries allSixteen (stopTimers (setPhase .leaving s)) = r at h1
  refine (h0.trans h1.txStep).trans ((leaveTransmitter_txStep r.2 r.1 ?_).trans (refreshIsolated_txStep ..))
  rw [h1.station]; rfl

theorem changeEntry_tx (n : Service) (e : ServiceEntry) (s : State) : (changeEntry n e s).tx = s.tx := by
  simp only [changeEntry]
  split <;> rfl

theorem muteEntry_tx (n : Service) (s : State) : (muteEntry n s).tx = s.tx := by
  simp only [muteEntry]
  split <;> simp [removeWtr, leaveHeld, dropRecord, changeEntry_tx]

theorem forEach_muteEntry_tx (s : State) : (forEach muteEntry s).tx = s.tx := by
  unfold forEach
  induction allSixteen generalizing s with
  | nil => rfl
  | cons n rest ih => exact (ih _).trans (muteEntry_tx n s)

/-- The Transmitter at MUTED is consistent in any phase (R144, case 3). -/
theorem muteTransmitter_core {s t : State} (h : s.TxCore) (ht : t.tx = s.tx) (hp : t.station.phase = .muted) :
    (muteTransmitter t).TxConsistent := by
  have hq : emptyQueue.Limited := emptyQueue_limited
  unfold muteTransmitter
  rw [ht]
  split
  · next hd =>
    have hd' : (t.withTx { s.tx with queue := emptyQueue }).tx.state = .driving := hd
    refine ⟨⟨h.flight, h.agrees, h.backOff, h.deaf, hq, fun _ => ⟨rfl, .inr ⟨hp, hd⟩⟩⟩, ?_, ?_⟩
    · rw [hd']; simp
    · rw [hd']; simp
  · exact ⟨⟨by simp, by simp, by simp, h.deaf, hq, fun _ => ⟨rfl, .inl rfl⟩⟩, by simp, by simp⟩

theorem muteStation_tx (c : MuteCause) {s : State} (h : s.TxCore) : (muteStation c s).TxConsistent := by
  unfold muteStation
  refine (TxStep.trans (refreshIsolated_txStep ..) (post_step ..).txStep).consistent (muteTransmitter_core h ?_ ?_)
  · rw [forEach_muteEntry_tx]; rfl
  · rw [(forEach_step muteEntry_step _).station]; rfl

theorem requestMuted_tx (c : MuteCause) {s : State} (h : s.TxCore) (hs : s.tx.state = .ready → s.tx.queue = emptyQueue)
    (hh : s.tx.state ≠ .halted ∨ s.station.phase.sends = true) : (requestMuted c s).TxConsistent := by
  unfold requestMuted
  split
  · exact muteStation_tx c h
  · next hp => exact ⟨h, hh.resolve_right hp, hs⟩

/-! ## Attempts -/

/-- A Transmitter that is driving may send, or the station is MUTED (R144). -/
theorem State.TxCore.driving_sends {s : State} (h : s.TxCore) (hd : s.tx.state = .driving)
    (hm : s.station.phase ≠ .muted) : s.station.phase.sends = true := by
  by_contra hs
  rcases (h.silent (by simpa using hs)).2 with e | e
  · rw [hd] at e; cases e
  · exact hm e.1

theorem frameFinished_tx (s : State) : (frameFinished s).tx = s.tx := by
  unfold frameFinished
  split <;> rfl

/-- A finished frame leaves the Transmitter consistent (R112, R135). -/
theorem finishFrame_tx {s : State} (hd : s.tx.deafCount ≤ 3) (hq : s.tx.queue.Limited)
    (hs : s.station.phase.sends = true) : (finishFrame s).TxConsistent := by
  simp only [finishFrame]
  generalize hu : (frameFinished (s.withTx { s.tx with flight := none, backOff := none })).withTx _ = u
  have hc : u.TxCore := by
    subst hu
    simp only [frameFinished_tx]
    refine ⟨by simp, by simp, by simp, hd, hq, fun hn => ⟨?_, .inl rfl⟩⟩
    unfold frameFinished at hn
    split at hn
    · next hf =>
      have := hf.2.1
      simp only [withTx_tx, TxQueue.isEmpty] at this
      show s.tx.queue = emptyQueue
      cases hqq : s.tx.queue with
      | mk u c st =>
        rw [hqq] at this
        simp only [Bool.and_eq_true, List.isEmpty_iff, Bool.not_eq_true'] at this
        obtain ⟨⟨rfl, rfl⟩, rfl⟩ := this
        rfl
    · simp only [withTx_station] at hn
      rw [hs] at hn; cases hn
  have hr : u.tx.state = .ready := by subst hu; rfl
  have hk := takeNext_core hc
  refine ⟨hk.1, fun e => ?_, hk.2⟩
  have := (takeNext_step u).halted e
  rw [hr] at this; cases this

theorem beginAttempt_tx {f : Flight} (b : FrameBody) {s : State} (h : s.TxCore) (hf : s.tx.flight = some f)
    (hw : s.tx.state = .waiting) (hs : s.station.phase.sends = true) : (beginAttempt f b s).TxConsistent := by
  have ha := h.agrees f hf
  have hn := ha.waiting hw
  have hb : s.tx.backOff = none := by
    by_contra hne
    have := h.backOff.mp hne
    rw [hw] at this; cases this
  simp only [beginAttempt]
  refine ⟨⟨by simp, fun g hg => ?_, by simp [hb], h.deaf, h.queue, fun e => ?_⟩, by simp, by simp⟩
  · simp only [withTx_tx, Option.some.injEq] at hg
    subst hg
    by_cases h0 : f.attempts = 0
    · simp only [h0, if_true]
      exact ⟨ha.frame, by simp, by simp, fun _ => by simp, by simp, by simp⟩
    · simp only [h0, if_false]
      have hcn : f.content ≠ none := fun e => h0 (ha.content.mp e)
      have hsn : f.seq ≠ none := fun e => h0 (ha.seq.mp e)
      exact ⟨ha.frame, by simp [hcn], by simp [hsn], fun _ => by simp; omega, by simp, by simp⟩
  · rw [withTx_station, hs] at e; cases e

theorem attemptStart_tx {s : State} (h : s.TxConsistent) : (attemptStart s).TxConsistent := by
  unfold attemptStart
  split
  · next hc =>
    split
    · next f hf =>
      split
      · exact beginAttempt_tx _ h.toTxCore hf hc.1 hc.2.1
      · exact finishFrame_tx h.deaf h.queue hc.2.1
    · exact h
  · exact h

/-- The attempt's frame dropped in MUTED leaves a Transmitter with nothing to send (R144, case 3). -/
theorem dropMuted_tx {s : State} (hd : s.tx.deafCount ≤ 3) (hq : s.tx.queue = emptyQueue) :
    (dropMuted s).TxConsistent :=
  ⟨⟨by simp [dropMuted], by simp [dropMuted], by simp [dropMuted], hd, by
      show s.tx.queue.Limited
      rw [hq]; exact emptyQueue_limited, fun _ => ⟨hq, .inl rfl⟩⟩, by simp [dropMuted], fun _ => hq⟩

theorem backOff_tx (k : Nat) {f : Flight} {s : State} (hf : s.tx.flight = some f) (ha : f.Agrees .driving)
    (hl : f.attempts < 8) (hd : s.tx.deafCount ≤ 3) (hq : s.tx.queue.Limited) (hs : s.station.phase.sends = true) :
    (backOff k s).TxConsistent := by
  refine ⟨⟨by simp [backOff, hf], fun g hg => ?_, by simp [backOff], hd, hq, fun e => ?_⟩, by simp [backOff],
    by simp [backOff]⟩
  · have : g = f := by
      have : s.tx.flight = some g := hg
      rw [hf] at this; exact (Option.some.inj this).symm
    subst this
    exact ⟨ha.frame, ha.content, ha.seq, by simp [backOff], by simp [backOff], fun _ => ⟨(ha.driving rfl).1, hl⟩⟩
  · have : s.station.phase.sends = false := e
    rw [hs] at this; cases this

theorem giveUp_tx (f : Flight) {s : State} (h : s.TxCore) (hs : s.station.phase.sends = true) :
    (giveUp f s).TxConsistent := by
  have h1 : (s.withTx { s.tx with giveUps := satInc s.tx.giveUps }).TxCore :=
    ⟨h.flight, h.agrees, h.backOff, h.deaf, h.queue, h.silent⟩
  have hp := fun k n e d => post_step k n none e d (s.withTx { s.tx with giveUps := satInc s.tx.giveUps })
  simp only [giveUp]
  split
  · next n e _ =>
    have hp' := (hp .txGiveUp (some n) (some e) (some (.frame .claim))).trans (claimGivenUp_step n e _)
    have hc := hp'.core h1
    exact finishFrame_tx hc.deaf hc.queue (by rw [hp'.station]; exact hs)
  · have hc := (hp .txGiveUp none none (some (.frame .status))).core h1
    exact finishFrame_tx hc.deaf hc.queue hs
  · have hc := (hp .txGiveUp none none (some (.frame .release))).core h1
    exact finishFrame_tx hc.deaf hc.queue hs
  · have hc := (hp .txGiveUp none none (some (.frame .object))).core h1
    exact finishFrame_tx hc.deaf hc.queue hs

/-- The queue of a MUTED Transmitter is empty (R131, R144). -/
theorem State.TxCore.muted_empty {s : State} (h : s.TxCore) (hm : s.station.phase = .muted) :
    s.tx.queue = emptyQueue := (h.silent (by rw [hm]; rfl)).1

theorem endClean_tx (f : Flight) {s : State} (h : s.TxCore) (hd : s.tx.state = .driving) :
    (endClean f s).TxConsistent := by
  simp only [endClean]
  split
  · next hm => exact dropMuted_tx (Nat.zero_le _) (h.muted_empty hm)
  · next hm =>
    have hs := h.driving_sends hd hm
    have h1 : (s.withTx { s.tx with framesSent := satInc s.tx.framesSent, deafCount := 0 }).TxCore :=
      ⟨h.flight, h.agrees, h.backOff, Nat.zero_le _, h.queue, h.silent⟩
    split
    · next n e _ =>
      have hp := claimSentClean_step n e (s.withTx { s.tx with framesSent := satInc s.tx.framesSent, deafCount := 0 })
      exact finishFrame_tx (hp.core h1).deaf (hp.core h1).queue (by rw [hp.station]; exact hs)
    · exact finishFrame_tx h1.deaf h1.queue hs
    · exact finishFrame_tx h1.deaf h1.queue hs
    · exact finishFrame_tx h1.deaf h1.queue hs

theorem endCollided_tx {f : Flight} {s : State} (h : s.TxCore) (hd : s.tx.state = .driving)
    (hf : s.tx.flight = some f) : (endCollided f s).TxConsistent := by
  simp only [endCollided]
  split
  · next hm => exact dropMuted_tx (Nat.zero_le _) (h.muted_empty hm)
  · next hm =>
    have hs := h.driving_sends hd hm
    split
    · next hl =>
      exact backOff_tx _ hf (hd ▸ h.agrees f hf) hl (Nat.zero_le _) h.queue hs
    · exact giveUp_tx f (s := s.withTx _) ⟨h.flight, h.agrees, h.backOff, Nat.zero_le _, h.queue, h.silent⟩ hs

theorem endDeaf_tx {f : Flight} {s : State} (h : s.TxCore) (hd : s.tx.state = .driving)
    (hf : s.tx.flight = some f) : (endDeaf f s).TxConsistent := by
  have h3 : min (s.tx.deafCount + 1) Config.deafLimit ≤ 3 := Nat.min_le_right _ _
  have ha : f.Agrees .driving := hd ▸ h.agrees f hf
  have hb : s.tx.backOff = none := by
    by_contra hne
    have := h.backOff.mp hne
    rw [hd] at this; cases this
  simp only [endDeaf]
  split
  · next hm => exact dropMuted_tx h3 (h.muted_empty hm)
  · next hm =>
    have hs := h.driving_sends hd hm
    split
    · refine requestMuted_tx _ ⟨by simp [hf], fun g hg => ?_, by simp [hb], h3, h.queue, fun e => ?_⟩ (by simp)
        (.inr hs)
      · simp only [withTx_tx] at hg
        have hg' : s.tx.flight = some g := hg
        rw [hf] at hg'
        obtain rfl := Option.some.inj hg'
        exact ⟨ha.frame, ha.content, ha.seq, by simp, by simp, by simp⟩
      · rw [withTx_station, withTx_station, hs] at e; cases e
    · split
      · next hl => exact backOff_tx _ hf ha hl h3 h.queue hs
      · exact giveUp_tx f (s := s.withTx _) ⟨h.flight, h.agrees, h.backOff, h3, h.queue, h.silent⟩ hs

/-- The flight of the attempt being driven. -/
theorem State.drivenFlight_some {s : State} {f : Flight} (h : s.drivenFlight = some f) :
    s.tx.state = .driving ∧ s.tx.flight = some f := by
  unfold State.drivenFlight at h
  split at h
  · next hd => exact ⟨hd, h⟩
  · cases h

theorem attemptClean_tx {s : State} (h : s.TxConsistent) : (attemptClean s).TxConsistent := by
  unfold attemptClean
  split
  · next f hf =>
    have hd := State.drivenFlight_some hf
    exact endClean_tx f ((withRx_txStep ..).core h.toTxCore) hd.1
  · exact h

theorem attemptDeaf_tx {s : State} (h : s.TxConsistent) : (attemptDeaf s).TxConsistent := by
  unfold attemptDeaf
  split
  · next f hf =>
    have hd := State.drivenFlight_some hf
    exact endDeaf_tx h.toTxCore hd.1 hd.2
  · exact h

/-! ## The line -/

theorem idClash_tx {s : State} (h : s.TxConsistent) : (idClash s).TxConsistent := by
  unfold idClash
  have h1 := ((withPeers_txStep s { s.peers with clashCount := satInc s.peers.clashCount }).trans
    (post_step .idClash none (some s.station.ownId) none
      (some (.count (clashDetail (satInc s.peers.clashCount)))) _).txStep).consistent h
  exact requestMuted_tx .idClash h1.toTxCore h1.drained (.inl h1.halted)

theorem routeFrame_tx (f : Frame) {s : State} (h : s.TxConsistent) : (routeFrame f s).TxConsistent := by
  unfold routeFrame
  split
  · split
    · exact h
    · exact idClash_tx h
  · exact (takeFrame_txStep f s).consistent h

theorem frameEnds_tx (c : List Bool) (past : Bool) (r : Receiver) {s : State} (h : s.TxConsistent) :
    (frameEnds c past r s).TxConsistent := by
  simp only [frameEnds]
  have h1 := (withRx_txStep s (r.count (judgeFrame c past))).consistent h
  split
  · exact routeFrame_tx _ h1
  · exact h1
  · exact h1

theorem passBits_tx (k : Nat) {s : State} (h : s.TxConsistent) : (passBits k s).TxConsistent := by
  unfold passBits
  split
  · next b hst hb =>
    exact ⟨⟨h.flight, h.agrees, by simp [hst], h.deaf, h.queue, h.silent⟩, h.halted, h.drained⟩
  · exact h

theorem collidedWith_tx {f : Flight} (r : Receiver) (ev : LineEvent) {s : State} (h : s.TxConsistent)
    (hf : s.drivenFlight = some f) : (collidedWith f r ev s).TxConsistent := by
  have hd := State.drivenFlight_some hf
  have h1 := fun r => endCollided_tx (s := s.withRx r) ((withRx_txStep s r).core h.toTxCore) hd.1 hd.2
  simp only [collidedWith]
  split
  · split
    · split
      · exact h1 _
      · exact (takeFrame_txStep _ _).consistent (h1 _)
    · exact h1 _
    · exact h1 _
  · exact h1 _
  · exact h1 _
  · exact h1 _

theorem attemptCollided_tx (line : List Symbol) {s : State} (h : s.TxConsistent) :
    (attemptCollided line s).TxConsistent := by
  unfold attemptCollided
  split
  · next f hf =>
    split
    · exact collidedWith_tx _ _ h hf
    · exact h
  · exact h

theorem frameReceived_tx (line : List Symbol) {s : State} (h : s.TxConsistent) :
    (frameReceived line s).TxConsistent := by
  unfold frameReceived
  split
  · exact h
  · split
    · next f hf =>
      split
      · exact attemptClean_tx h
      · exact collidedWith_tx _ _ h hf
      · exact h
    · split
      · exact frameEnds_tx _ _ _ (passBits_tx _ h)
      · exact h

theorem codeError_tx (line : List Symbol) {s : State} (h : s.TxConsistent) : (codeError line s).TxConsistent := by
  unfold codeError
  split
  · exact h
  · split
    · next f hf =>
      split
      · exact collidedWith_tx _ _ h hf
      · exact h
    · split
      · next r _ => exact (withRx_txStep (passBits line.length s) r).consistent (passBits_tx _ h)
      · exact h

theorem lineIdle_tx (line : List Symbol) {s : State} (h : s.TxConsistent) : (lineIdle line s).TxConsistent := by
  unfold lineIdle
  split
  · exact h
  · split
    · next r _ => exact (withRx_txStep (passBits line.length s) r).consistent (passBits_tx _ h)
    · exact h

/-- The end of a back-off (R141). -/
theorem endBackOff_tx (r : Receiver) {s : State} (h : s.TxConsistent) (hb : s.tx.state = .backingOff) :
    ((s.withRx r).withTx { s.tx with state := .waiting, backOff := none }).TxConsistent := by
  have hf : s.tx.flight ≠ none := fun e => by have := h.flight.mpr e; rw [hb] at this; cases this
  refine ⟨⟨by simp [hf], fun g hg => ?_, by simp, h.deaf, h.queue, fun e => ?_⟩, by simp, by simp⟩
  · have ha := h.agrees g hg
    exact ⟨ha.frame, ha.content, ha.seq, by simp, fun _ => (ha.backingOff hb).2, by simp⟩
  · rcases (h.silent e).2 with e | e
    · rw [hb] at e; cases e
    · rw [hb] at e; cases e.2

theorem backOffEnd_tx (line : List Symbol) {s : State} (h : s.TxConsistent) : (backOffEnd line s).TxConsistent := by
  unfold backOffEnd
  split
  · next hc =>
    split
    · exact endBackOff_tx _ h hc.1
    · exact endBackOff_tx _ h hc.1
    · exact h
  · exact h

/-! ## Time and the pins -/

theorem tick_txStep (s : State) : TxStep s (tick s) := .away rfl rfl

theorem timebaseTick_txStep (s : State) : TxStep s (timebaseTick s) := by
  unfold timebaseTick
  split
  · exact .refl s
  · exact tick_txStep s

theorem setPins_txStep (n : Service) (sf sd : Bool) (s : State) : TxStep s (setPins n sf sd s) := by
  simp only [setPins]
  split
  · exact (putCondition_txStep ..).trans (rawChanged_txStep ..)
  · exact putCondition_txStep ..

theorem conditionRunsOut_txStep (n : Service) (s : State) : TxStep s (conditionRunsOut n s) := by
  unfold conditionRunsOut
  split
  · exact debounce_txStep ..
  · exact .refl s

theorem peerTimerRunsOut_txStep (p : StationId) (s : State) : TxStep s (peerTimerRunsOut p s) := by
  unfold peerTimerRunsOut
  split
  · exact silenceRunsOut_txStep ..
  · exact .refl s

theorem listenRunsOut_txStep (s : State) : TxStep s (listenRunsOut s) := by
  unfold listenRunsOut
  split
  · exact enterActive_txStep s
  · exact .refl s

theorem statusRunsOut_txStep (s : State) : TxStep s (statusRunsOut s) := by
  unfold statusRunsOut
  split
  · exact statusPeriod_txStep s
  · exact .refl s

/-! ## The host -/

theorem moveAddress_txStep (a : HostAddress) (s : State) : TxStep s (moveAddress a s) := by
  unfold moveAddress
  split
  · exact withHost_txStep ..
  · exact .refl s
  · exact .refl s

theorem storeCode_txStep (c : Byte) (s : State) : TxStep s (storeCode c s) := withHost_txStep ..

/-- The Transmitter's consistency does not depend on its counters (R146). -/
theorem counters_txStep (s : State) (a b c d : Word16) :
    TxStep s (s.withTx { s.tx with framesSent := a, collisions := b, deafAttempts := c, giveUps := d }) :=
  ⟨⟨fun h => ⟨h.flight, h.agrees, h.backOff, h.deaf, h.queue, h.silent⟩, id⟩, fun _ h => h⟩

/-- CLEAR_COUNTERS touches the transmit counters alone (R146). -/
theorem clearCounters_txStep (s : State) : TxStep s (clearCounters s) := by
  unfold clearCounters
  refine .trans ?_ (setResult_txStep ..)
  refine .trans ?_ (withPeers_txStep ..)
  exact (withRx_txStep ..).trans (counters_txStep ..)

theorem writePlanSelect_txStep (v : Byte) (s : State) : TxStep s (writePlanSelect v s) := by
  unfold writePlanSelect
  split
  · exact (withHost_txStep ..).trans (setResult_txStep ..)
  · exact setResult_txStep ..

theorem writePlanField_txStep (f : PlanField) (v : Byte) (s : State) : TxStep s (writePlanField f v s) := by
  simp only [writePlanField]
  split
  · exact setResult_txStep ..
  · split
    · exact setResult_txStep ..
    · refine .trans (withStation_txStep s { s.station with plan := s.station.plan.withField s.host.planSelect f v } rfl)
        (.trans (setResult_txStep ..) (putCondition_txStep ..))

theorem writeIrqControl_txStep (r : IrqRegister) (v : Byte) (s : State) : TxStep s (writeIrqControl r v s) := by
  cases r <;> exact withHost_txStep ..

theorem selectService_txStep (v : Byte) (s : State) : TxStep s (selectService v s) := by
  unfold selectService
  split
  · exact (withHost_txStep ..).trans (setResult_txStep ..)
  · exact setResult_txStep ..

theorem selectPeer_txStep (v : Byte) (s : State) : TxStep s (selectPeer v s) := by
  unfold selectPeer
  split
  · exact (withHost_txStep ..).trans (setResult_txStep ..)
  · exact setResult_txStep ..

theorem selectCounter_txStep (v : Byte) (s : State) : TxStep s (selectCounter v s) := by
  unfold selectCounter
  split
  · exact (withHost_txStep ..).trans (setResult_txStep ..)
  · exact setResult_txStep ..

theorem popEvent_txStep (s : State) : TxStep s (popEvent s) := by
  unfold popEvent
  split
  · exact .away rfl rfl
  · split
    · exact withHost_txStep ..
    · exact withHost_txStep ..

theorem fetchPop_txStep (s : State) : TxStep s (fetchPop s) := by
  unfold fetchPop
  exact (popEvent_txStep s).trans (.trans (withHost_txStep ..) (moveAddress_txStep ..))

/-- RESTART leaves the Transmitter READY with an empty queue (R145). -/
theorem restartStation_tx (s : State) : (restartStation s).TxConsistent := by
  unfold restartStation
  refine (post_step ..).txStep.consistent ?_
  exact ⟨⟨by simp, by simp, by simp, Nat.zero_le _, emptyQueue_limited, fun _ => ⟨rfl, .inl rfl⟩⟩, by simp,
    fun _ => rfl⟩

/-- Hard reset leaves the Transmitter READY with an empty queue (R145). -/
theorem resetBlocks_tx (id : StationId) (low : Bool) (s : State) : (resetBlocks id low s).TxConsistent :=
  ⟨⟨by simp [resetBlocks, hardResetState, resetTransmitter], by simp [resetBlocks, hardResetState, resetTransmitter],
    by simp [resetBlocks, hardResetState, resetTransmitter], Nat.zero_le _, emptyQueue_limited,
    fun _ => ⟨rfl, .inl rfl⟩⟩, by simp [resetBlocks, hardResetState, resetTransmitter], fun _ => rfl⟩

theorem hardReset_tx (rst : RstLevel) (s : State) : (hardReset rst s).TxConsistent := by
  cases rst <;> exact resetBlocks_tx ..

theorem runCommand_tx (c : Command) {s : State} (h : s.TxConsistent) : (runCommand c s).TxConsistent := by
  cases c with
  | start =>
    simp only [runCommand, commandStart]
    split
    · exact ((startStation_txStep s).trans (setResult_txStep ..)).consistent h
    · exact (setResult_txStep ..).consistent h
  | leave =>
    simp only [runCommand, commandLeave]
    split
    · exact ((leaveStation_txStep s).trans (setResult_txStep ..)).consistent h
    · exact (setResult_txStep ..).consistent h
  | restart => exact (setResult_txStep ..).consistent (restartStation_tx s)
  | force => exact (operatorRequest_txStep ..).consistent h
  | lockout => exact (operatorRequest_txStep ..).consistent h
  | clear => exact (operatorRequest_txStep ..).consistent h
  | clearCounters => exact (clearCounters_txStep s).consistent h

theorem writeCode_tx (v : Byte) {s : State} (h : s.TxConsistent) : (writeCode v s).TxConsistent := by
  have h1 := (storeCode_txStep v s).consistent h
  unfold writeCode
  split
  · exact runCommand_tx _ h1
  · exact (setResult_txStep ..).consistent h1

theorem fetchByte_txStep (a : HostAddress) (s : State) : TxStep s (fetchByte a s) := by
  unfold fetchByte
  split
  · exact fetchPop_txStep s
  · exact .trans (withHost_txStep ..) (moveAddress_txStep ..)

/-- A byte clocked at an address keeps the Transmitter consistent where the action of a write does (R147). -/
theorem dataByte_tx (a : HostAddress) {take : State → State}
    (ht : ∀ s : State, s.TxConsistent → (take s).TxConsistent) {s : State} (h : s.TxConsistent) :
    (dataByte a take s).TxConsistent := by
  unfold dataByte
  split
  · split
    · exact (moveAddress_txStep ..).consistent (ht s h)
    · exact h
  · split
    · exact (fetchByte_txStep ..).consistent h
    · exact h
  · exact h
  · exact h

theorem takeCommand_tx (c : Command) {s : State} (h : s.TxConsistent) : (takeCommand c s).TxConsistent :=
  dataByte_tx _ (fun _ h => runCommand_tx c ((storeCode_txStep ..).consistent h)) h

theorem writeByte_tx (a : BitVec 7) (v : Byte) {s : State} (h : s.TxConsistent) : (writeByte a v s).TxConsistent := by
  unfold writeByte
  split
  · exact (withHost_txStep ..).consistent h
  · exact writeCode_tx v h
  · exact (writeIrqControl_txStep ..).consistent h
  · exact (writeIrqControl_txStep ..).consistent h
  · exact (writePlanSelect_txStep ..).consistent h
  · exact (writePlanField_txStep ..).consistent h
  · exact (writePlanField_txStep ..).consistent h
  · exact (writePlanField_txStep ..).consistent h
  · exact (writePlanField_txStep ..).consistent h
  · exact (writePlanField_txStep ..).consistent h
  · exact (writePlanField_txStep ..).consistent h
  · exact (selectService_txStep ..).consistent h
  · exact (selectCounter_txStep ..).consistent h
  · exact (selectPeer_txStep ..).consistent h
  · exact h

theorem registerWrite_tx (a : HostAddress) (v : Byte) {s : State} (h : s.TxConsistent) :
    (registerWrite a v s).TxConsistent := by
  refine dataByte_tx _ (fun s h => ?_) h
  unfold writeAddress
  split
  · exact writeByte_tx _ v h
  · exact h

end Sys2Proof.Machine
end

