-- ==== Sys2Proof/WellFormed.lean ====
section
/-! DEFINITION. When a command is well formed: its operands can be what the row says. `exec` answers for every command, the
ill-formed ones too (log entries 1 and 26). -/

namespace Sys2Proof

/-- A byte that names no command of Table 10-2 (R150). -/
def namesNoCommand (code : Byte) : Bool := (Machine.commandOfCode code).isNone

/-- An address that has a row of its own, with a meaning at every value but for the command code, where the row depends on
the byte (Table 11-5). -/
def hasOwnRow (a : BitVec 7) : Bool :=
  decide
    (a = Machine.addrCode ∨ a = Machine.addrIrqEnable ∨ a = Machine.addrClassMask ∨ a = Machine.addrPlanSelect ∨
      (0x12 ≤ a.toNat ∧ a.toNat ≤ 0x17) ∨ a = Machine.addrServiceSelect ∨ a = Machine.addrCounterSelect ∨
      a = Machine.addrPeerSelect)

/-- A line in which a mark, a frame end or a code error can come about: its last bit time exists. -/
def takesBitTime (line : List Symbol) : Bool := !line.isEmpty

/-- The longest back-off, 16 slots (R141). -/
def longestBackOff : Nat := 16 * Config.slot

/-- Whether a command is well formed. -/
def Instr.wellFormed : Instr → Bool
  | .hardReset _ => true
  | .timebaseTick => true
  | .rawConditionChange _ _ _ => true
  | .conditionTimerRunsOut _ => true
  | .wtrTimerRunsOut _ => true
  | .retryHoldRunsOut _ => true
  | .claimWindowEnd _ => true
  | .silenceTimerRunsOut _ => true
  | .listenTimerRunsOut => true
  | .statusPeriodTimerRunsOut => true
  | .frameReceived line => takesBitTime line && decide (line.getLast? ≠ some .empty)
  | .codeError line => takesBitTime line
  | .attemptStart => true
  | .attemptClean => true
  | .attemptCollided line => takesBitTime line
  | .attemptDeaf => true
  | .backOffEnd line => decide (line.length ≤ longestBackOff)
  | .start => true
  | .leave => true
  | .restart => true
  | .force => true
  | .lockout => true
  | .clear => true
  | .clearCounters => true
  | .unknownCommandCode code => namesNoCommand code
  | .planSelectWrite _ => true
  | .planFieldWrite _ _ => true
  | .serviceSnapshotSelect _ => true
  | .peerSnapshotSelect _ => true
  | .counterSnapshotSelect _ => true
  | .irqControlWrite _ _ => true
  | .eventPop => true
  | .registerWrite (.at a) _ => !hasOwnRow a
  | .registerWrite .pastEnd _ => true
  | .lineIdle line => takesBitTime line && decide (line.getLast? = some .empty)
  | .transactionBegin => true
  | .addressByte _ => true
  | .transactionEnd => true

end Sys2Proof
end

