-- ==== Sys2Proof/Tests/Slice0.lean ====
section
/-! SUPPORT. The model's own tests: an ill-formed term for each check of `Instr.wellFormed`, the spec's worked examples,
one small check of single commands, and for each obligation with hypotheses a witness that meets them. -/

set_option Elab.async false

namespace Sys2Proof.Machine

/-! ## Ill-formed commands -/

theorem test_frame_needs_bit_times : Instr.wellFormed (.frameReceived []) = false := by decide
theorem test_frame_ends_in_pulse : Instr.wellFormed (.frameReceived [.pulse .positive, .empty]) = false := by decide
theorem test_code_error_needs_bit_time : Instr.wellFormed (.codeError []) = false := by decide
theorem test_collision_needs_bit_time : Instr.wellFormed (.attemptCollided []) = false := by decide
theorem test_back_off_is_bounded (s : Symbol) : Instr.wellFormed (.backOffEnd (List.replicate 513 s)) = false := by
  simp only [Instr.wellFormed, List.length_replicate]; decide
theorem test_known_code_is_no_unknown_code : Instr.wellFormed (.unknownCommandCode 0x10) = false := by decide
theorem test_own_row_address : Instr.wellFormed (.registerWrite (.at 0x0D) 1) = false := by decide
theorem test_idle_needs_bit_time : Instr.wellFormed (.lineIdle []) = false := by decide
theorem test_idle_ends_empty : Instr.wellFormed (.lineIdle [.empty, .pulse .negative]) = false := by decide
theorem test_well_formed_examples :
    Instr.wellFormed (.unknownCommandCode 0x04) = true ∧ Instr.wellFormed (.registerWrite (.at 0x0C) 1) = true ∧
      Instr.wellFormed (.lineIdle [.empty]) = true := by decide
theorem test_no_word_spells_a_command : decodeTableWord 8 1 = none := rfl

/-! ## The spec's worked examples -/

/-- The bits of 81h on the line (chapter 8, example). -/
def line81 : List Symbol :=
  [.pulse .positive, .pulse .positive, .pulse .negative, .empty, .empty, .empty, .empty, .pulse .negative, .empty,
    .pulse .positive, .pulse .negative, .empty, .pulse .negative]

theorem test_line_of_81h : codeFrame (bitsOfBytes [0x81]) = line81 := by decide

/-- A receiver on an idle line. -/
def idleReceiver : Receiver := { resetReceiver with receiving := true, decoder := .lineIdle, emptyCount := 12 }

theorem test_line_of_81h_read :
    (idleReceiver.run line81).map (fun x => x.2) = some (.frameEnd (bitsOfBytes [0x81]) false) := by decide +kernel

theorem test_fifth_empty_is_code_error :
    (idleReceiver.run (line81.take 7 ++ [.empty])).map (fun x => x.2) = some .codeError := by decide +kernel

theorem test_late_violation_is_code_error :
    (idleReceiver.run (line81.take 12 ++ [.empty, .pulse .negative])).map (fun x => x.2) = some .codeError := by
  decide +kernel

/-- R157: the CRC over 31h to 39h. -/
theorem test_crc_check_value :
    crc16 [0x31, 0x32, 0x33, 0x34, 0x35, 0x36, 0x37, 0x38, 0x39] = 0x29B1 := by decide +kernel

/-- Table 1-6. -/
theorem test_epoch_table :
    compareEpochs (some 10) (some 5) = .newer ∧ compareEpochs (some 3) (some 250) = .newer ∧
      compareEpochs (some 250) (some 3) = .older ∧ compareEpochs (some 130) (some 2) = .older ∧
      compareEpochs (some 2) (some 130) = .older ∧ compareEpochs (some 0) none = .newer := by decide

/-- R10: the epochs that wrap and start. -/
theorem test_next_epochs : nextEpoch (some 255) = 0 ∧ nextEpoch none = 1 := by decide

/-- Chapter 1, example: among 2 (DEG, 1), 5 (OK, 3) and 9 (OK, 3), station 5 is the best, until 2 is FORCE. -/
theorem test_best_candidate :
    let t5 : ClaimTuple := { cls := .normal, grade := .ok, rank := 3, id := 5 }
    let t2 : ClaimTuple := { cls := .normal, grade := .deg, rank := 1, id := 2 }
    t5.better t2 = true ∧ t5.better { t5 with id := 9 } = true ∧ ClaimTuple.better { t2 with cls := .force } t5 = true := by
  decide

/-! ## A small station -/

/-- S0 is revertive with rank 1 and a 20 ms hold-off, S1 has rank 2. -/
def demoPlan : Plan :=
  { resetPlan with
    records :=
      place
        (place (uniform resetPlanRecord) 0 { defined := true, revertive := true, wtr := 5, rank := 1, holdOff := 2 }) 1
        { defined := true, revertive := false, wtr := 1, rank := 2, holdOff := 0 } }

/-- The byte that peer 1 publishes for S0 and S1. -/
def peerByte : ServiceByte := { grade := .ok, cls := .normal, rank := 3 }

/-- What peer 1 publishes, with a held list. -/
def peerStatus (held : List (Service × Epoch)) : StatusBody :=
  { phase := .active, isolated := false
    services := place (place (uniform { grade := .unav, cls := .normal, rank := 0 }) 0 peerByte) 1 peerByte
    held := held }

/-- The LIVE peer 1. -/
def livePeer : PeerEntry :=
  { resetPeer 0 1 with
    state := .live, lastSeq := some 7, silence := some 20, inOrder := 2, data := some (peerStatus [])
    checksumSeen := some 0 }

/-- A service whose line is sound. -/
def soundCondition : ServiceCondition := { resetCondition false false with grade := .ok }

/-- Station 0, ACTIVE on an idle line, with the LIVE peer 1; every entry is VACANT. -/
def demo : State :=
  { State.reset with
    timebase := 9
    station :=
      { phase := .active, plan := demoPlan, checksum := 0, listenTimer := none, statusTimer := some 4, ownId := 0 }
    cond := place (place (uniform (resetCondition false false)) 0 soundCondition) 1 soundCondition
    peers := { entries := place (tabulate (resetPeer 0)) 1 livePeer, isolated := false, clashCount := 0 }
    rx := idleReceiver }

/-- The small station with entry 0 as given. -/
def demoWith (e : ServiceEntry) : State := putEntry 0 e demo

/-- The small station in another phase. -/
def demoIn (p : Phase) (s : State) : State := setPhase p s

/-- Entry 0 HELD at epoch 5. -/
def heldEntry : ServiceEntry := { resetEntry 9 with state := .held, owner := some 0, epoch := some 5 }

/-- Entry 0 owned by the LIVE peer 1 at epoch 5. -/
def remoteEntry : ServiceEntry := { resetEntry 9 with state := .remote, owner := some 1, epoch := some 5 }

/-- Entry 0 as it was left at epoch 5 by an owner of old. -/
def vacantEntry : ServiceEntry := { resetEntry 9 with epoch := some 5 }

/-- A record of entry 0 for epoch 6. -/
def demoRecord (claimant : StationId) (mode : ClaimMode) (sent : Option SentFlag) (window : Option Nat) : ClaimRecord :=
  { claimant := claimant, epoch := 6, mode := mode, claimed := peerByte, sent := sent, window := window,
    releaseHeard := false, listing := .notHeard }

/-- Entry 0 with an own claim, from VACANT or from the owner the mode names. -/
def claimingEntry (owner : Option StationId) (r : ClaimRecord) : ServiceEntry :=
  { resetEntry 9 with state := .claiming, owner := owner, epoch := some 5, record := some r }

/-- An own claim that waits to be sent, with its release heard or not. -/
def queuedClaim (heard : Bool) : ServiceEntry :=
  claimingEntry none { demoRecord 0 .vacant (some .queued) none with releaseHeard := heard }

/-- Entry 0 with a watched claim. -/
def watchingEntry (r : ClaimRecord) : ServiceEntry :=
  { resetEntry 9 with state := .watching, epoch := some 5, record := some r }

/-- The Transmitter with a frame in flight. -/
def demoTx (st : TxState) (f : TxFrame) (content : Option (List Byte)) (attempts : Nat) (s : State) : State :=
  s.withTx
    { s.tx with
      state := st
      flight := some { frame := f, content := content, seq := content.map fun _ => 0, attempts := attempts }
      backOff := if st = .backingOff then some 3 else none }

/-- A RELEASE frame of a station. -/
def demoFrame (sender : StationId) (q : Byte) : Frame :=
  { sender := sender, seq := q, checksum := 0
    body := .release [{ service := 0, epoch := 5, reason := .handover }] }

/-- A STATUS frame of peer 1. -/
def demoStatus (q : Byte) (held : List (Service × Epoch)) : Frame :=
  { sender := 1, seq := q, checksum := 0, body := .status (peerStatus held) }

/-- A CLAIM of a station for S0. -/
def demoClaim (epoch : Epoch) (mode : ClaimMode) (byte : ServiceByte) : ClaimBody :=
  { service := 0, epoch := epoch, mode := mode, claimed := byte }

/-- The attempt of `demoFrame 0 0`, being driven. -/
def demoDriving (attempts : Nat) : State :=
  demoTx .driving (.release [{ service := 0, epoch := 5, reason := .handover }]) (some (frameBytes (demoFrame 0 0)))
    attempts demo

/-- A state with a transaction in DATA at an address. -/
def atAddress (dir : Direction) (a : HostAddress) (s : State) : State := s.withHost { s.host with txn := .data dir a }

/-- A state in which the next byte is written to the command code. -/
def atCode (s : State) : State := atAddress .write (.at 0x0D) s

/-! ## Single commands -/

/-- The state that a command leaves. -/
def after (c : Instr) (s : State) : State :=
  match exec c s with
  | .next t => t
  | .fault _ => s
  | .refused _ => s

theorem test_hard_reset_samples_id :
    (after (.hardReset (.high 11)) demo).station.ownId = 11 ∧
      ((after (.hardReset (.high 11)) demo).peer 11).state = .self := by
  decide +kernel

/-- R159: DRVn is held low while RST is low, and IRQ floats. -/
theorem test_low_rst_holds_drives :
    (demoWith heldEntry).drvPin 0 = .high ∧ (after (.hardReset .low) (demoWith heldEntry)).drvPin 0 = .low ∧
      (after (.hardReset .low) demo).irqPin = .floating := by decide +kernel

/-- R156: while RST is low HSEL is ignored, and it is not once RST has returned high. -/
theorem test_low_rst_ignores_hsel :
    (after .transactionBegin (after (.hardReset .low) demo)).host.txn = .idle ∧
      (after .transactionBegin (after (.hardReset (.high 0)) demo)).host.txn = .address := by decide +kernel
theorem test_tick_counts : (after .timebaseTick demo).timebase = 10 := by decide +kernel

/-- Chapter 5, example, with a 20 ms hold-off: the change starts the timer and keeps the grade. -/
theorem test_hold_off_starts :
    ((after (.rawConditionChange 0 false true) demo).condition 0).timer = some 20 ∧
      ((after (.rawConditionChange 0 false true) demo).condition 0).grade = .ok := by decide +kernel

/-- Chapter 5, example, with a hold-off of 0: the grade falls at once. -/
theorem test_no_hold_off :
    ((after (.rawConditionChange 1 false true) demo).condition 1).grade = .deg := by decide +kernel

theorem test_vacant_service_is_claimed :
    ((after (.retryHoldRunsOut 0) (demoWith { vacantEntry with retryHold := some 0 })).entry 0).state = .claiming ∧
      (after (.retryHoldRunsOut 0) (demoWith { vacantEntry with retryHold := some 0 })).tx.flight =
        some { frame := .claim 0 6, content := none, seq := none, attempts := 0 } := by decide +kernel

theorem test_window_end_holds :
    look (after (.claimWindowEnd 0)
      (demoWith (claimingEntry none (demoRecord 0 .vacant (some .sent) (some 0))))).oc.drv 0 = true := by decide +kernel

theorem test_silence_makes_silent :
    ((after (.silenceTimerRunsOut 1) (putPeer 1 { livePeer with silence := some 0 } (demoWith remoteEntry))).peer
      1).state = .silent := by decide +kernel

theorem test_status_period_restarts :
    (after .statusPeriodTimerRunsOut
      (demo.withStation { demo.station with statusTimer := some 0 })).station.statusTimer = some 4 := by decide +kernel

theorem test_release_frame_is_heard :
    ((after (.frameReceived (codeFrame (bitsOfBytes (frameBytes (demoFrame 1 8))))) (demoWith remoteEntry)).entry
      0).owner = none := by decide +kernel

theorem test_attempt_start_builds_status :
    (after .attemptStart (demoTx .waiting .status none 0 demo)).tx.nextSeq = 1 ∧
      (after .attemptStart (demoTx .waiting .status none 0 demo)).tx.state = .driving := by decide +kernel

theorem test_clean_attempt_is_counted : (after .attemptClean (demoDriving 1)).tx.framesSent = 1 := by decide +kernel
theorem test_third_deaf_mutes :
    (after .attemptDeaf ((demoDriving 1).withTx { (demoDriving 1).tx with deafCount := 2 })).station.phase = .muted := by
  decide +kernel
theorem test_back_off_of_one_slot : (after .attemptDeaf (demoDriving 1)).tx.backOff = some 32 := by decide +kernel

theorem test_start_listens :
    (after .start (atCode State.reset)).station.phase = .listen ∧
      (after .start (atCode State.reset)).station.listenTimer = some 60 := by
  decide +kernel

/-- R147: while HSEL is high HSCK is ignored, and in a read transaction the command code is read. -/
theorem test_start_needs_a_write :
    (after .start State.reset).station.phase = .config ∧
      (after .start (atAddress .read (.at 0x0D) State.reset)).station.phase = .config ∧
      (after .start (atAddress .read (.at 0x0D) State.reset)).host.fetched = some 0 := by decide +kernel
theorem test_leave_releases :
    (after .leave (atCode (demoWith heldEntry))).tx.flight =
        some
          { frame := .release [{ service := 0, epoch := 5, reason := .leave }], content := none, seq := none
            attempts := 0 } ∧
      (after .leave (atCode (demoWith heldEntry))).tx.queue.status = true := by decide +kernel
theorem test_restart_is_config : (after .restart (atCode demo)).station.phase = .config := by decide +kernel
theorem test_force_sets_class : ((after .force (atCode demo)).condition 0).cls = .force := by decide +kernel
theorem test_lockout_drops : look (after .lockout (atCode (demoWith heldEntry))).oc.drv 0 = false := by decide +kernel
theorem test_plan_rank_needs_definition :
    (after (.planFieldWrite .rank 1) (atAddress .write (.at 0x14) State.reset)).host.result = .refusedArg := by decide +kernel
theorem test_service_snapshot_of_vacant :
    (hostRead (after (.serviceSnapshotSelect 0) (atAddress .write (.at 0x18) State.reset)) (.at 0x1A)) = 0xFF := by decide +kernel
theorem test_address_byte_reads :
    (after (.addressByte 0xC4) (after .transactionBegin State.reset)).host.txn = .data .read (.at 0x44) := by
  decide +kernel

/-! ## Witnesses: the machine -/

theorem witness_StepRunsFrontCommand : State.reset.pending = [] := rfl

theorem demo_drives : demo.DriveFollowsHeld := by
  unfold State.DriveFollowsHeld; decide +kernel

theorem demo_tx : demo.TxConsistent where
  flight := by decide
  agrees := by intro f h; cases h
  backOff := by decide
  deaf := by decide
  queue := emptyQueue_limited
  silent := by intro h; cases h
  halted := by decide
  drained := by intro _; rfl

theorem demo_blocks : demo.BlocksAgree where
  self := by decide +kernel
  grades := by decide +kernel
  classes := by decide +kernel
  ranks := by decide +kernel
  isolated := by decide +kernel
  receiving := by decide
  configTable := by intro h; cases h
  configPeers := by intro h; cases h
  listenTimer := by intro _; rfl
  statusTimer := by intro _ h; exact absurd rfl h

theorem demo_entries (n : Service) : demo.EntryAgrees n := by
  have h : ∀ n, (demo.entry n).state = .vacant ∧ (demo.entry n).owner = none ∧ (demo.entry n).record = none := by
    decide +kernel
  exact (entryAgrees_vacant (h n).1).2 (h n).2

/-- The entries of the small station with another entry 0. -/
theorem demoWith_entries {e : ServiceEntry} (h : (demoWith e).EntryAgrees 0) (n : Service) : (demoWith e).EntryAgrees n := by
  by_cases hn : n = 0
  · subst hn; exact h
  · exact EntryAgrees.congr (s := demo) (look_place_ne _ _ hn) rfl (fun _ => rfl) id (demo_entries n)

theorem held_may : (demoWith heldEntry).MayHold 0 := by unfold State.MayHold; decide +kernel

theorem held_agrees : (demoWith heldEntry).EntryAgrees 0 :=
  (entryAgrees_held (by decide +kernel)).2 ⟨by decide +kernel, by decide +kernel, held_may⟩

theorem remote_agrees : (demoWith remoteEntry).EntryAgrees 0 :=
  (entryAgrees_remote (by decide +kernel)).2 ⟨by decide +kernel, 1, by decide +kernel, by decide, by decide +kernel⟩

/-- An own claim that is SENT, its window at its end. -/
def sentClaim (mode : ClaimMode) : ClaimRecord := demoRecord 0 mode (some .sent) (some 0)

theorem vacantClaim_agrees : (demoWith (claimingEntry none (sentClaim .vacant))).EntryAgrees 0 :=
  (entryAgrees_claiming (by decide +kernel)).2
    ⟨by decide +kernel, by unfold State.MayHold; decide +kernel, sentClaim .vacant, by decide +kernel, by decide,
      by unfold ClaimRecord.Fit; decide, by unfold ClaimRecord.OwnTimes; decide⟩

theorem takeover_agrees : (demoWith (claimingEntry (some 1) (sentClaim (.takeover 1)))).EntryAgrees 0 :=
  (entryAgrees_claiming (by decide +kernel)).2
    ⟨by decide +kernel, by unfold State.MayHold; decide +kernel, sentClaim (.takeover 1), by decide +kernel, by decide,
      by unfold ClaimRecord.Fit; decide, by unfold ClaimRecord.OwnTimes; decide⟩

/-- A watched claim of peer 1, its window at its end. -/
def watched (mode : ClaimMode) : ClaimRecord := demoRecord 1 mode none (some 0)

theorem watched_agrees (m : ClaimMode) : (demoWith (watchingEntry (watched m))).EntryAgrees 0 :=
  (entryAgrees_watching rfl).2
    ⟨by show (none : Option StationId) ≠ some 0; decide, watched m, rfl, by show (1 : StationId) ≠ 0; decide, by rfl,
      by show Grade.ok ≠ Grade.unav ∧ (3 : Rank) ≠ 0; decide, rfl, by show some 0 ≠ none; decide⟩

/-- The other blocks agree in the small station whatever entry 0 is. -/
theorem demoWith_blocks (e : ServiceEntry) : (demoWith e).BlocksAgree :=
  ⟨demo_blocks.self, demo_blocks.grades, demo_blocks.classes, demo_blocks.ranks, demo_blocks.isolated,
    demo_blocks.receiving, nofun, nofun, demo_blocks.listenTimer, demo_blocks.statusTimer⟩

theorem witness_StepKeepsOutputs :
    let s := demo.withPending [.timebaseTick]
    s.DriveFollowsHeld ∧ s.host.Sound ∧ s.ResetHeld ∧ step s = .next (tick demo) :=
  ⟨demo_drives, ⟨rfl, by decide, by decide⟩, nofun, rfl⟩

/-- The same with RST low, and with the pins of an attempt and of a byte that was fetched. -/
theorem witness_StepKeepsOutputs_pins :
    (let s := (after (.hardReset .low) demo).withPending [.rawConditionChange 0 true false]
     s.ResetHeld ∧ s.rstLow = true) ∧
      (let t := demoDriving 1
       t.rstLow = false ∧ t.tx.state = .driving ∧ t.busDrive 0 = .bpAboveBn) ∧
      (let t := after .eventPop (atAddress .read (.at 0x44) demo)
       t.rstLow = false ∧ t.host.txn = .data .read (.at 0x45) ∧ t.host.fetched = some 0) := by
  refine ⟨⟨?_, rfl⟩, ?_, rfl, rfl, rfl⟩
  · unfold State.ResetHeld; decide +kernel
  · decide +kernel

theorem witness_StepKeepsTransmitter :
    let s := demo.withPending [.statusPeriodTimerRunsOut]
    s.TxConsistent ∧ ∃ t, step s = .next t :=
  ⟨⟨⟨demo_tx.flight, demo_tx.agrees, demo_tx.backOff, demo_tx.deaf, demo_tx.queue, demo_tx.silent⟩, demo_tx.halted,
    demo_tx.drained⟩, _, rfl⟩

theorem witness_StepKeepsTables :
    let s := (demoWith heldEntry).withPending [.leave]
    (∀ n, s.EntryAgrees n) ∧ s.BlocksAgree ∧ s.TxConsistent ∧ ∃ t, step s = .next t :=
  have h := demoWith_blocks heldEntry
  ⟨fun n => demoWith_entries held_agrees n,
    ⟨h.self, h.grades, h.classes, h.ranks, h.isolated, h.receiving, h.configTable, h.configPeers, h.listenTimer,
      h.statusTimer⟩,
    ⟨⟨demo_tx.flight, demo_tx.agrees, demo_tx.backOff, demo_tx.deaf, demo_tx.queue, demo_tx.silent⟩, demo_tx.halted,
      demo_tx.drained⟩, _, rfl⟩

theorem witness_StepKeepsRanges :
    let s := State.reset.withPending [.start]
    s.InRange ∧ ∃ t, step s = .next t := by
  refine ⟨?_, _, rfl⟩
  unfold State.InRange
  decide +kernel

/-! ## Witnesses: orders and formats -/

theorem witness_EpochComparison :
    compareEpochs (some 127) (some 0) = .newer ∧ compareEpochs (some 128) (some 0) = .older := by decide

theorem witness_CandidateOrder :
    demo.ownCandidate 0 = true ∧ demo.ownCandidate 2 = false ∧ demo.peerCandidate 0 1 = some (peerByte.tuple 1) ∧
      demo.peerCandidate 0 2 = none := by decide +kernel

theorem witness_DecoderInvertsLineCode :
    idleReceiver.decoder = .lineIdle ∧ (List.replicate 696 false).length ≤ 696 :=
  ⟨rfl, by rw [List.length_replicate]⟩

theorem witness_FrameBytesParseBack :
    (demoFrame 1 0).body.WellFormed ∧ (FrameBody.claim (demoClaim 6 (.takeover 1) peerByte)).WellFormed ∧
      (FrameBody.status (peerStatus [(0, 5), (15, 255)])).WellFormed := by
  refine ⟨by simp [FrameBody.WellFormed, demoFrame], trivial, ?_⟩
  show List.Pairwise (· < ·) [(0 : Service), 15]
  decide

theorem witness_PeerFrameIsTaken :
    demo.rx.receiving = true ∧ demo.tx.state ≠ .driving ∧ demo.rx.decoder = .lineIdle ∧
      (demoFrame 1 8).body.WellFormed ∧ (demoFrame 1 8).sender ≠ demo.station.ownId :=
  ⟨rfl, by decide, rfl, by simp [FrameBody.WellFormed, demoFrame], by decide⟩

/-- A receiver in the bit time before a frame's end, after too many bits. -/
def overrunReceiver : Receiver :=
  { idleReceiver with
    decoder := .inFrame, emptyCount := 1, lastPolarity := some .positive, assembled := [true, false], overrun := true
    lastMark := some .contentOne }

theorem witness_EndedFrameIsCounted :
    (overrunReceiver.run [.pulse .positive]).map (fun x => x.2) = some (.frameEnd [] true) ∧
      judgeFrame [] true = .formatError ∧
      (demo.rx.run (codeFrame (List.replicate 40 false))).map (fun x => x.2) =
        some (.frameEnd (List.replicate 40 false) false) ∧
      judgeFrame (List.replicate 40 false) false = .formatError ∧
      (demo.rx.run (codeFrame (List.replicate 48 true))).map (fun x => x.2) =
        some (.frameEnd (List.replicate 48 true) false) ∧
      judgeFrame (List.replicate 48 true) false = .crcError ∧
      (demo.rx.run (codeFrame (bitsOfBytes (frameBytes (demoFrame 0 8))))).map (fun x => x.2) =
        some (.frameEnd (bitsOfBytes (frameBytes (demoFrame 0 8))) false) ∧
      judgeFrame (bitsOfBytes (frameBytes (demoFrame 0 8))) false = .good (demoFrame 0 8) := by
  decide +kernel

/-! ## Witnesses: time and the pins -/

/-- A WTR timer one tick before each of its clauses: at 0, within a second, and at the end of one. -/
theorem witness_TickCountsEveryTimer :
    let w := fun (sec t : Nat) => ({ seconds := sec, ticks := t, due := false } : WtrTimer)
    demo.rstLow = false ∧ (after (.hardReset .low) demo).rstLow = true ∧
      ((demoWith { remoteEntry with wtr := some (w 0 0) }).entry 0).wtr = some (w 0 0) ∧
      ((demoWith { remoteEntry with wtr := some (w 1 998) }).entry 0).wtr = some (w 1 998) ∧
      ((demoWith { remoteEntry with wtr := some (w 1 999) }).entry 0).wtr = some (w 1 999) := by decide +kernel

/-- The small station with a debounced condition and a raw condition of S0 and S1. -/
def demoDebounced (deb raw : Condition) : State :=
  putCondition 0 { soundCondition with debounced := deb, raw := raw }
    (putCondition 1 { soundCondition with debounced := deb, raw := raw } demo)

theorem witness_RawConditionChange :
    rawOf false false = (demo.condition 0).raw ∧
      (rawOf false false ≠ ((demoDebounced .ok .deg).condition 0).raw ∧
        rawOf false false = ((demoDebounced .ok .deg).condition 0).debounced) ∧
      (rawOf true true ≠ (demo.condition 0).raw ∧ (rawOf true true).worse (demo.condition 0).debounced = true ∧
        (demo.planOf 0).holdOff ≠ 0) ∧
      (rawOf false true ≠ (demo.condition 1).raw ∧ (rawOf false true).worse (demo.condition 1).debounced = true ∧
        (demo.planOf 1).holdOff = 0) ∧
      (rawOf false true ≠ ((demoDebounced .fail .fail).condition 1).raw ∧
        ((demoDebounced .fail .fail).condition 1).debounced.worse (rawOf false true) = true ∧
        demo.station.phase ≠ .config) := by decide +kernel

theorem witness_ConditionTimerRunsOut :
    let same := putCondition 0 { soundCondition with timer := some 0 } demo
    let worse := putCondition 0 { soundCondition with timer := some 0, raw := .fail } demo
    (same.condition 0).timer = some 0 ∧ (worse.condition 0).timer = some 0 ∧
      ((after (.conditionTimerRunsOut 0) same).condition 0).grade = (same.condition 0).grade ∧
      ((after (.conditionTimerRunsOut 0) worse).condition 0).grade ≠ (worse.condition 0).grade := by decide +kernel

/-- The small station with an own claim on S0, the debounced condition about to be the raw one. -/
def claimUnderTimer (sent : Bool) (c : ServiceCondition) : State :=
  putCondition 0 c (demoWith (if sent then claimingEntry none (sentClaim .vacant) else queuedClaim false))

theorem claimUnderTimer_agrees (sent : Bool) (c : ServiceCondition) (h : c.request = .none) :
    (claimUnderTimer sent c).EntryAgrees 0 := by
  have hm : (claimUnderTimer sent c).MayHold 0 := by
    refine ⟨rfl, by show (look demoPlan.records 0).rank ≠ 0; decide, rfl, ?_⟩
    show c.request ≠ .lockout
    rw [h]; decide
  cases sent with
  | false =>
    exact (entryAgrees_claiming rfl).2
      ⟨by show (none : Option StationId) ≠ some 0; decide, hm, demoRecord 0 .vacant (some .queued) none, rfl, rfl,
        by show Grade.ok ≠ Grade.unav ∧ (3 : Rank) ≠ 0; decide, .inl ⟨rfl, rfl⟩⟩
  | true =>
    exact (entryAgrees_claiming rfl).2
      ⟨by show (none : Option StationId) ≠ some 0; decide, hm, sentClaim .vacant, rfl, rfl,
        by show Grade.ok ≠ Grade.unav ∧ (3 : Rank) ≠ 0; decide,
        by show (some SentFlag.sent = some .queued ∧ _) ∨ (some SentFlag.sent = some .sent ∧ some 0 ≠ none); decide⟩

theorem witness_ConditionTimerRunsOut_claim (sent : Bool) :
    let fails := claimUnderTimer sent { soundCondition with timer := some 0, raw := .fail }
    let worse := claimUnderTimer sent { soundCondition with timer := some 0, raw := .deg }
    (fails.EntryAgrees 0 ∧ (fails.entry 0).state = .claiming ∧ (fails.condition 0).grade ≠ .fail ∧
      ((after (.conditionTimerRunsOut 0) fails).condition 0).grade = .fail ∧ peerByte.cls = .normal) ∧
      (worse.EntryAgrees 0 ∧ (worse.entry 0).state = .claiming ∧
        ((after (.conditionTimerRunsOut 0) worse).condition 0).grade ≠ .fail) :=
  ⟨⟨claimUnderTimer_agrees _ _ rfl, by cases sent <;> decide +kernel, by cases sent <;> decide +kernel,
      by cases sent <;> decide +kernel, rfl⟩,
    claimUnderTimer_agrees _ _ rfl, by cases sent <;> decide +kernel, by cases sent <;> decide +kernel⟩

/-- A WTR timer that has just run out. -/
def dueTimer : WtrTimer := { seconds := 0, ticks := 0, due := true }

theorem witness_WtrTimerClaimsBack :
    let s := demoWith { remoteEntry with wtr := some dueTimer }
    s.station.phase = .active ∧ (s.entry 0).state = .remote ∧ (s.entry 0).owner = some 1 ∧
      s.published 1 0 = some peerByte ∧ (s.entry 0).wtr = some dueTimer ∧
      (dueTimer.due = true ∧ dueTimer.seconds = 0) ∧ (s.entry 0).retryHold = none ∧ (s.planOf 0).revertive = true ∧
      ((s.condition 0).grade = peerByte.grade ∧ peerByte.grade ≠ .fail) ∧ (s.planOf 0).rank < peerByte.rank ∧
      ((s.condition 0).cls = .normal ∧ peerByte.cls = .normal) ∧ s.ownBest 0 = true := by decide +kernel

theorem witness_RetryHoldRunsOut :
    let s := demoWith { vacantEntry with retryHold := some 0 }
    let worse := putCondition 0 { soundCondition with grade := .deg } s
    (s.entry 0).retryHold = some 0 ∧ s.station.phase = .active ∧ (s.entry 0).state = .vacant ∧ s.ownBest 0 = true ∧
      (s.peers.isolated = false ∧ (s.condition 0).grade ≠ .fail) ∧
      (worse.entry 0).retryHold = some 0 ∧ worse.ownBest 0 = false ∧
      (demoIn .leaving s).station.phase ≠ .active := by decide +kernel

theorem witness_RetryHoldRunsOut_owned :
    let s := demoWith { remoteEntry with retryHold := some 0 }
    let worse := putPeer 1 { livePeer with data := some { peerStatus [] with services := uniform { peerByte with grade := .deg } } } s
    let w := demoWith { watchingEntry { watched .vacant with claimed := { peerByte with rank := 7 } } with retryHold := some 0 }
    ((s.entry 0).state = .remote ∧ (s.entry 0).owner = some 1 ∧ s.published 1 0 = some peerByte ∧ s.ownBest 0 = true ∧
      (s.condition 0).grade = peerByte.grade ∧ (s.planOf 0).rank < peerByte.rank ∧ (s.entry 0).wtr = none) ∧
      (worse.ownBest 0 = true ∧ (worse.condition 0).grade.better .deg = true) ∧
      ((w.entry 0).state = .watching ∧ (6 : Epoch) = nextEpoch (w.entry 0).epoch ∧ w.ownCandidate 0 = true ∧
        (w.ownTuple 0).better { cls := .normal, grade := .ok, rank := 7, id := 1 } = true) := by decide +kernel

theorem witness_OwnWindowEnds :
    (let s := demoWith (claimingEntry none (sentClaim .vacant))
     s.EntryAgrees 0 ∧ (s.entry 0).state = .claiming ∧ (s.entry 0).record = some (sentClaim .vacant) ∧
       (sentClaim .vacant).window = some 0) ∧
      (let s := demoWith (claimingEntry (some 1) (sentClaim (.takeover 1)))
       s.EntryAgrees 0 ∧ (s.entry 0).state = .claiming ∧ (s.entry 0).record = some (sentClaim (.takeover 1)) ∧
         (sentClaim (.takeover 1)).mode = .takeover 1 ∧ s.isLive 1 = true ∧
         (sentClaim (.takeover 1)).releaseHeard = false ∧ (sentClaim (.takeover 1)).listing ≠ .notListed) :=
  ⟨⟨vacantClaim_agrees, by decide +kernel, by decide +kernel, rfl⟩,
    ⟨takeover_agrees, by decide +kernel, by decide +kernel, rfl, by decide +kernel, rfl, by decide⟩⟩

theorem witness_WatchedWindowEnds :
    (let s := demoWith (watchingEntry (watched .vacant))
     s.EntryAgrees 0 ∧ (s.entry 0).state = .watching ∧ (s.entry 0).record = some (watched .vacant) ∧
       (watched .vacant).window = some 0) ∧
      (let s := demoWith (watchingEntry (watched (.takeover 1)))
       s.EntryAgrees 0 ∧ (s.entry 0).record = some (watched (.takeover 1)) ∧ s.isLive 1 = true ∧
         (watched (.takeover 1)).releaseHeard = false ∧ (watched (.takeover 1)).listing ≠ .notListed) :=
  ⟨⟨watched_agrees _, by decide +kernel, by decide +kernel, rfl⟩,
    ⟨watched_agrees _, by decide +kernel, by decide +kernel, rfl, by decide⟩⟩

/-- The small station with peer 1 in a state, its silence timer at its end. -/
def demoSilent (st : PeerState) (s : State) : State := putPeer 1 { livePeer with state := st, silence := some 0 } s

theorem witness_SilenceTimerRunsOut :
    (∀ st ∈ [PeerState.live, .arriving, .incompatible], ((demoSilent st demo).peer 1).silence = some 0 ∧
        ((demoSilent st demo).peer 1).state = st) ∧
      (let s := demoIn .listen (demoSilent .live (demoWith remoteEntry))
       (s.entry 0).record = none ∧ (s.entry 0).owner = some 1 ∧ (s.entry 0).state = .remote ∧
         s.station.phase ≠ .active) ∧
      ((demoWith (watchingEntry (watched .vacant))).entry 0).record = some (watched .vacant) := by decide +kernel

/-- The small station in LISTEN, its listen timer at its end, with `expected` peers expected. -/
def demoListening (expected : Fin 16) : State :=
  demo.withStation
    { demo.station with phase := .listen, listenTimer := some 0, plan := { demoPlan with expectedPeers := expected } }

theorem witness_ListenTimerRunsOut :
    (demoListening 0).station.listenTimer = some 0 ∧ (demoListening 15).station.phase = .listen ∧
      (demoListening 15).peers.isolated = false := by decide +kernel

theorem witness_StatusPeriodRunsOut :
    let s := demo.withStation { demo.station with statusTimer := some 0 }
    s.station.statusTimer = some 0 ∧ s.station.phase = .active ∧ s.tx.state = .ready ∧ s.tx.queue = emptyQueue ∧
      (demoTx .waiting .status none 0 s).station.statusTimer = some 0 ∧
      (demoTx .waiting .status none 0 s).tx.state ≠ .ready := by decide +kernel

/-! ## Witnesses: the bus and the Transmitter -/

theorem witness_AttemptStarts :
    let es := [({ service := 0, epoch := 5, reason := .leave } : ReleaseEntry)]
    ∀ k ∈ [0, 1, 7],
      let s := demoTx .waiting (.release es) none k demo
      s.tx.state = .waiting ∧ s.station.phase.sends = true ∧ s.rx.receiving = true ∧ s.rx.decoder = .lineIdle ∧
        (s.tx.flight.map fun f => f.attempts) = some k ∧ s.buildBody (.release es) = some (.release es) := by
  decide +kernel

theorem witness_FrameContents :
    (let s := demoWith heldEntry
     (s.entry 0).state = .held ∧ (s.entry 0).heldEpoch = 5 ∧ s.station.phase = .active) ∧
      (let s := demoWith (claimingEntry none (demoRecord 0 .vacant (some .queued) none))
       (s.entry 0).state = .claiming ∧ (s.entry 0).record = some (demoRecord 0 .vacant (some .queued) none) ∧
         (demoRecord 0 .vacant (some .queued) none).claimant = s.station.ownId) := by decide +kernel

theorem witness_StaleClaimIsDropped :
    let s := demoTx .waiting (.claim 0 6) none 0 demo
    s.tx.state = .waiting ∧ s.station.phase.sends = true ∧ s.rx.receiving = true ∧ s.rx.decoder = .lineIdle ∧
      s.tx.flight = some { frame := .claim 0 6, content := none, seq := none, attempts := 0 } ∧
      (∀ r, (s.entry 0).state = .claiming → (s.entry 0).record = some r → r.claimant = s.station.ownId → r.epoch ≠ 6) :=
  ⟨rfl, rfl, rfl, rfl, rfl, fun _ h => absurd h (by decide +kernel)⟩

theorem witness_CleanAttemptEnds :
    let f : Flight :=
      { frame := .release [{ service := 0, epoch := 5, reason := .handover }]
        content := some (frameBytes (demoFrame 0 0)), seq := some 0, attempts := 1 }
    (demoDriving 1).tx.state = .driving ∧ (demoDriving 1).tx.flight = some f ∧ (∀ n e, f.frame ≠ .claim n e) ∧
      (demoDriving 1).station.phase.sends = true ∧ (demoIn .muted (demoDriving 1)).station.phase = .muted ∧
      (demoIn .leaving (demoDriving 1)).station.phase.sends = true :=
  ⟨rfl, rfl, nofun, rfl, rfl, rfl⟩

/-- The small station driving the CLAIM for S0 at epoch 6. -/
def drivingClaim (e : ServiceEntry) : State :=
  demoTx .driving (.claim 0 6)
    (some
      (frameBytes
        { sender := 0, seq := 0, checksum := 0, body := .claim (demoClaim 6 .vacant peerByte) })) 1 (demoWith e)

theorem queuedClaim_agrees (heard : Bool) : (drivingClaim (queuedClaim heard)).EntryAgrees 0 :=
  (entryAgrees_claiming rfl).2
    ⟨by show (none : Option StationId) ≠ some 0; decide, by show _ ∧ _ ∧ _ ∧ _; exact ⟨rfl, by cases heard <;> decide, rfl, by cases heard <;> decide⟩,
      { demoRecord 0 .vacant (some .queued) none with releaseHeard := heard }, rfl, rfl,
      by show Grade.ok ≠ Grade.unav ∧ (3 : Rank) ≠ 0; decide, .inl ⟨rfl, rfl⟩⟩

theorem witness_CleanClaimEnds :
    (∀ heard, let s := drivingClaim (queuedClaim heard)
      s.tx.state = .driving ∧ (s.tx.flight.map fun f => f.frame) = some (.claim 0 6) ∧
        s.station.phase.sends = true ∧ s.EntryAgrees 0 ∧ (s.entry 0).state = .claiming) ∧
      (let s := drivingClaim vacantEntry
       s.EntryAgrees 0 ∧ (s.entry 0).state ≠ .claiming ∧ (s.entry 0).state ≠ .held ∧ s.station.phase = .active) ∧
      (drivingClaim heldEntry).EntryAgrees 0 ∧ ((drivingClaim heldEntry).entry 0).state = .held :=
  ⟨fun heard => ⟨rfl, rfl, rfl, queuedClaim_agrees heard, rfl⟩,
    ⟨(entryAgrees_vacant (by decide +kernel)).2 (by decide +kernel), by decide +kernel, by decide +kernel, rfl⟩,
    (entryAgrees_held (by decide +kernel)).2
      ⟨by decide +kernel, by decide +kernel, by unfold State.MayHold; decide +kernel⟩, by decide +kernel⟩

/-- The first three bit times of an attempt, the third with a pulse where none was driven. -/
def badStart : List Symbol := [.pulse .positive, .pulse .positive, .pulse .negative]

theorem witness_CollidedAttemptBacksOff :
    ∀ k ∈ [1, 7],
      let s := demoDriving k
      s.tx.state = .driving ∧ (s.tx.flight.map fun f => f.attempts) = some k ∧ s.station.phase ≠ .muted ∧
        ((s.tx.flight.bind fun f => s.judge f badStart).map fun x => (x.1, x.2.2.1, x.2.2.2)) =
          some (.collided, .quiet, []) := by decide +kernel

theorem witness_ReadbackJudgesAttempt :
    let f := (demoDriving 1).tx.flight
    (demoDriving 1).tx.state = .driving ∧ (demoDriving 1).rx.receiving = true ∧
      (demoDriving 1).rx.decoder = .lineIdle ∧ (f.bind fun f => f.content) = some (frameBytes (demoFrame 0 0)) ∧
      (f.map fun f => (isPulse (f.driven.getD 1 .empty), decide (1 < f.driven.length))) = some (true, true) := by
  decide +kernel

theorem witness_ReadbackJudgesAttempt_frame : (demoFrame 0 0).body.WellFormed := by
  simp [FrameBody.WellFormed, demoFrame]

theorem witness_EighthAttemptGivesUp :
    (let s := demoDriving 8
     s.tx.state = .driving ∧ (s.tx.flight.map fun f => f.attempts) = some 8 ∧ s.station.phase.sends = true ∧
       ((s.tx.flight.bind fun f => s.judge f badStart).map fun x => (x.1, x.2.2.1, x.2.2.2)) =
         some (.collided, .quiet, [])) ∧
      (let s := drivingClaim (queuedClaim false)
       let t := s.withTx { s.tx with flight := s.tx.flight.map fun f => { f with attempts := 8 } }
       t.tx.state = .driving ∧ (t.tx.flight.map fun f => (f.frame, f.attempts)) = some (.claim 0 6, 8) ∧
         ((t.tx.flight.bind fun f => t.judge f [.pulse .positive, .empty]).map fun x => (x.1, x.2.2.1, x.2.2.2)) =
           some (.collided, .codeError, []) ∧
         (t.entry 0).state = .claiming) := by decide +kernel

theorem witness_DeafAttempts :
    (∀ k ∈ [0, 1], ∀ a ∈ [7, 8], let s := (demoDriving a).withTx { (demoDriving a).tx with deafCount := k }
      s.tx.state = .driving ∧ s.tx.deafCount < 2 ∧ (s.tx.flight.map fun f => f.attempts) = some a ∧
        s.station.phase ≠ .muted ∧ s.station.phase.sends = true) ∧
      (let s := drivingClaim (queuedClaim false)
       let t := s.withTx { s.tx with flight := s.tx.flight.map fun f => { f with attempts := 8 } }
       t.tx.deafCount < 2 ∧ (t.tx.flight.map fun f => (f.frame, f.attempts)) = some (.claim 0 6, 8) ∧
         (t.entry 0).state = .claiming) ∧
      (let s := (demoDriving 1).withTx { (demoDriving 1).tx with deafCount := 2 }
       s.tx.state = .driving ∧ s.tx.deafCount = 2 ∧ s.station.phase.sends = true) := by decide +kernel

theorem witness_DeafAttempts_entries (n : Service) :
    ((demoDriving 1).withTx { (demoDriving 1).tx with deafCount := 2 }).EntryAgrees n :=
  EntryAgrees.congr (s := demo) rfl rfl (fun _ => rfl) id (demo_entries n)

theorem witness_BackOffEnds :
    (let s := demoTx .backingOff .status none 1 demo
     s.tx.state = .backingOff ∧ s.tx.backOff = some [Symbol.empty, .empty, .empty].length ∧ s.rx.receiving = true ∧
       (s.rx.run [.empty, .empty, .empty]).map (fun x => x.2) = some .quiet) ∧
      (Receiver.run { idleReceiver with decoder := .seekIdle, emptyCount := 9 } [.empty, .empty, .empty]).map (fun x => x.2) =
        some .idle := by decide +kernel

theorem witness_LineBecomesIdle :
    ∀ k ∈ [1, 12],
      let s := demo.withRx { idleReceiver with decoder := .seekIdle, emptyCount := 12 - k }
      s.rx.receiving = true ∧ s.tx.state ≠ .driving ∧ s.rx.decoder = .seekIdle ∧ 0 < k ∧ s.rx.emptyCount + k = 12 := by
  decide +kernel

theorem witness_CodeErrorsAreCounted :
    (let s := demo.withRx { idleReceiver with decoder := .opening, emptyCount := 0, lastPolarity := some .positive }
     s.rx.receiving = true ∧ s.tx.state ≠ .driving ∧ s.rx.decoder = .opening ∧ s.rx.lastPolarity ≠ some .negative) ∧
      (∀ k ∈ [0, 1, 2, 3, 4],
        let s := demo.withRx
          { idleReceiver with
            decoder := .inFrame, emptyCount := k, lastPolarity := some .positive, lastMark := some .fill }
        s.rx.decoder = .inFrame ∧ s.rx.emptyCount = k ∧ s.rx.lastPolarity = some .positive ∧
          s.rx.lastMark ≠ some .contentOne) := by decide +kernel

theorem witness_IdClashMutes :
    demo.rx.receiving = true ∧ demo.tx.state ≠ .driving ∧ demo.tx.flight = none ∧ demo.rx.decoder = .lineIdle ∧
      (demoFrame 0 8).body.WellFormed ∧ (demoFrame 0 8).sender = demo.station.ownId ∧
      (demoIn .muted demo).station.phase.sends = false :=
  ⟨rfl, by decide, rfl, rfl, by simp [FrameBody.WellFormed, demoFrame], rfl, rfl⟩

/-! ## Witnesses: the Peer Monitor -/

theorem witness_SequenceStep :
    (demoFrame 1 8).checksum = demo.station.checksum ∧ (demo.peer (demoFrame 1 7).sender).lastSeq = some 7 ∧
      (demo.peer (demoFrame 1 8).sender).lastSeq ≠ some 8 ∧ (demo.peer (demoFrame 2 8).sender).lastSeq = none ∧
      ((7 : Byte).toNat + 255 - (8 : Byte).toNat) % 256 = 254 := by decide +kernel

theorem witness_ChecksumMismatch :
    let f := { demoFrame 1 8 with checksum := 1 }
    f.checksum ≠ demo.station.checksum ∧ (demo.peer f.sender).state ≠ .incompatible ∧
      ((putPeer 1 { livePeer with state := .incompatible } demo).peer f.sender).state = .incompatible := by
  decide +kernel

/-- The small station with peer 1 ARRIVING and an in-order count. -/
def demoArriving (k : Nat) : State := putPeer 1 { livePeer with state := .arriving, inOrder := k } demo

/-- R94: an ARRIVING peer becomes ABSENT directly, though the frame is its second STATUS in order. -/
theorem test_leaving_status_of_arriving_peer :
    let f := { demoStatus 8 [] with body := .status { peerStatus [] with phase := .leaving } }
    let t := takeFrame f (demoArriving 1)
    (t.peer 1).state = .absent ∧ t.host.events.any (fun e => decide (e.kind = .peerLeft)) = true ∧
      t.host.events.any (fun e => decide (e.kind = .peerLive)) = false := by decide +kernel

theorem witness_PeerStates :
    (demoStatus 8 []).checksum = demo.station.checksum ∧ (demo.peer 1).lastSeq ≠ some (demoStatus 8 []).seq ∧
      (demo.peer 1).state ≠ .self ∧ (demoStatus 8 []).body.isStatus = true ∧
      (demoStatus 8 []).body.isLeaving = false ∧ (demoFrame 1 8).body.isStatus = false ∧
      (FrameBody.status { peerStatus [] with phase := .leaving }).isLeaving = true ∧
      (demo.peer 2).state ≠ .live ∧
      (∀ k ∈ [0, 1], ((demoArriving k).peer 1).state = .arriving ∧ ((demoArriving k).peer 1).lastSeq = some 7 ∧
        ((demoArriving k).peer 1).inOrder = k) ∧
      (demoStatus 8 []).seq = (7 : Byte) + 1 ∧ (demoStatus 9 []).seq ≠ (7 : Byte) + 1 := by decide +kernel

theorem witness_PeerStates_departure :
    (FrameBody.status { peerStatus [] with phase := .leaving }).isLeaving = true ∧ (1 : StationId) ≠ demo.station.ownId ∧
      (peerStatus []).held = [] ∧ (demo.planOf 0).defined = true ∧
      ((demoWith remoteEntry).entry 0).owner = some 1 ∧ demo.CanRecord 19 := by
  refine ⟨rfl, by decide, rfl, by decide +kernel, by decide +kernel, ?_⟩
  unfold State.CanRecord; decide

theorem witness_FramesAreDelivered :
    (demoFrame 1 8).checksum = demo.station.checksum ∧ (demo.peer (demoFrame 1 8).sender).state = .live ∧
      (demo.peer (demoFrame 1 8).sender).lastSeq = some 7 ∧ (7 : Byte) ≠ (demoFrame 1 8).seq ∧
      (demoStatus 8 [(0, 5)]).body = .status (peerStatus [(0, 5)]) ∧ (peerStatus [(0, 5)]).phase ≠ .leaving ∧
      (FrameBody.claim (demoClaim 6 .vacant peerByte)).isStatus = false := by decide +kernel

/-! ## Witnesses: the Ownership Controller -/

theorem witness_ClaimsAtNonHolder :
    let s := demoWith (watchingEntry (watched .vacant))
    let own := demoWith (queuedClaim false)
    (demo.entry 0).state ≠ .held ∧
      (demo.planOf 2).defined = false ∧
      compareEpochs (some (demoClaim 5 .vacant peerByte).epoch) (s.entry 0).epoch ≠ .newer ∧
      ((demoIn .listen demo).station.phase ≠ .active ∧ (demo.planOf 0).defined = true ∧ peerByte.grade ≠ .unav ∧
        peerByte.rank ≠ 0 ∧ demo.isLive 1 = true ∧ (demo.entry 0).record = none) ∧
      ((s.entry 0).state ≠ .held ∧ (s.entry 0).record = some (watched .vacant) ∧
        compareEpochs (some 7) (s.entry 0).epoch = .newer ∧
        compareEpochs (some 7) (some (watched .vacant).epoch) = .newer) ∧
      ((own.entry 0).state = .claiming ∧ (peerByte.tuple 1).better (demoRecord 0 .vacant none none).tuple = false ∧
        ({ peerByte with rank := 1 }.tuple 1).better (demoRecord 0 .vacant none none).tuple = true) := by decide +kernel

theorem witness_HolderJudgesTakeover :
    let s := demoWith heldEntry
    let c := fun (e : Epoch) (b : ServiceByte) => demoClaim e (.takeover 0) b
    (s.station.phase = .active ∧ (s.entry 0).state = .held ∧ (s.entry 0).epoch = some 5 ∧
      (s.planOf 0).defined = true ∧ (peerByte.grade ≠ .unav ∧ peerByte.rank ≠ 0) ∧
      (c 6 peerByte).mode = .takeover s.station.ownId ∧ (c 6 peerByte).epoch = (5 : Epoch) + 1 ∧
      (c 7 peerByte).epoch ≠ (5 : Epoch) + 1 ∧ s.isLive 1 = true ∧ s.isLive 2 = false) ∧
      (let deg := putCondition 0 { soundCondition with grade := .deg } s
       peerByte.grade.better (deg.condition 0).grade = true ∧ (deg.condition 0).cls = .normal) ∧
      ((s.planOf 0).revertive = true ∧ peerByte.grade = (s.condition 0).grade ∧ (s.planOf 0).rank ≤ peerByte.rank) ∧
      (let force := putCondition 0 { soundCondition with cls := .force, request := .force } s
       (force.condition 0).cls = .force ∧ (s.condition 0).cls = .normal) ∧
      ((demoClaim 6 .vacant peerByte).mode ≠ .takeover s.station.ownId ∧
        (demoClaim 6 (.takeover 2) peerByte).mode ≠ .takeover s.station.ownId ∧
        ({ peerByte with rank := 0 } : ServiceByte).rank = 0) := by decide +kernel

theorem witness_ReleaseEntries :
    let x := fun (e : Epoch) (r : ReleaseReason) => ({ service := 0, epoch := e, reason := r } : ReleaseEntry)
    let watching := demoWith (watchingEntry (watched .vacant))
    let takeover := demoWith (claimingEntry (some 1) (demoRecord 0 (.takeover 1) (some .queued) none))
    let sent := demoWith (claimingEntry (some 1) (sentClaim (.takeover 1)))
    (demo.planOf 2).defined = false ∧ (demo.planOf (x 6 .withdraw).service).defined = true ∧
      ((watching.entry 0).state = .watching ∧ (watched .vacant).claimant = 1 ∧
        (watched .vacant).epoch = (x 6 .withdraw).epoch) ∧
      ((takeover.entry 0).record = some (demoRecord 0 (.takeover 1) (some .queued) none) ∧
        (x 5 .handover).epoch = (demoRecord 0 (.takeover 1) (some .queued) none).epoch - 1) ∧
      ((sent.entry 0).record = some (sentClaim (.takeover 1)) ∧ (sentClaim (.takeover 1)).window ≠ none) ∧
      (((demoWith remoteEntry).entry 0).owner = some 1 ∧
        ((demoWith remoteEntry).entry 0).epoch = some (x 5 .leave).epoch) ∧
      ((demo.entry 0).owner ≠ some 1) := by decide +kernel

theorem witness_ReleaseEntries_agrees :
    (demoWith (claimingEntry (some 1) (sentClaim (.takeover 1)))).EntryAgrees 0 ∧
      (demoWith (watchingEntry (watched (.takeover 1)))).EntryAgrees 0 :=
  ⟨takeover_agrees, watched_agrees _⟩

theorem witness_ObjectEntries :
    let x := fun (p : StationId) (c : ObjectCause) =>
      ({ service := 0, claimant := p, claimEpoch := 6, holderEpoch := 9, cause := c } : ObjectEntry)
    let own := demoWith (queuedClaim false)
    let watching := demoWith (watchingEntry (watched .vacant))
    ((own.planOf 0).defined = true ∧
      (own.entry 0).record = some (demoRecord 0 .vacant (some .queued) none) ∧
      (demoRecord 0 .vacant (some .queued) none).claimant = (x 0 .ownerLive).claimant ∧
      (demoRecord 0 .vacant (some .queued) none).epoch = (x 0 .ownerLive).claimEpoch ∧
      (x 0 .notBetter).cause ≠ .ownerLive) ∧
      ((watching.entry 0).record = some (watched .vacant) ∧ (watched .vacant).claimant = (x 1 .ownerLive).claimant ∧
        (watched .vacant).claimant ≠ watching.station.ownId) ∧
      (demo.planOf 2).defined = false := by decide +kernel

theorem witness_ReconciliationFromStatus :
    let listed := peerStatus [(0, 6)]
    let remote := demoWith remoteEntry
    (demo.entry 0).state ≠ .held ∧ listed.listing 0 = some 6 ∧ (peerStatus []).listing 0 = none ∧
      ((remote.entry 0).record = none ∧ (remote.entry 0).owner = some 1 ∧ (remote.entry 0).epoch ≠ some 6) ∧
      ((demo.entry 0).owner ≠ some 1 ∧ (demo.entry 0).state = .vacant) ∧
      ((remote.entry 0).owner ≠ some 2 ∧ (remote.entry 0).state = .remote ∧ remote.published 1 0 = some peerByte ∧
        compareEpochs (some 6) (remote.entry 0).epoch = .newer ∧ compareEpochs (some 4) (remote.entry 0).epoch = .older ∧
        (peerByte.tuple 2).better (peerByte.tuple 1) = false ∧ (peerByte.tuple 0).better (peerByte.tuple 1) = true) ∧
      ((demoWith (watchingEntry (watched (.takeover 1)))).entry 0).record = some (watched (.takeover 1)) ∧
      ((peerStatus [(0, 6), (15, 255)]).held.map Prod.fst).Nodup ∧
      ((demoIn .listen demo).station.phase ≠ .active ∧ (demo.planOf 0).defined = true ∧
        (demo.planOf 15).defined = false) := by
  decide +kernel

theorem witness_DualHoldIsSettled :
    let s := demoWith heldEntry
    (s.station.phase = .active ∧ (s.entry 0).state = .held ∧ (s.entry 0).record = none ∧
      (s.entry 0).owner = some s.station.ownId ∧ (1 : StationId) ≠ s.station.ownId ∧ (s.entry 0).epoch = some 5) ∧
      (∀ f ∈ [(4 : Epoch), 5, 6], (peerStatus [(0, f)]).listing 0 = some f) ∧ s.isLive 1 = true ∧ s.isLive 2 = false ∧
      (peerByte.tuple 1).better (s.ownTuple 0) = false ∧
      (let deg := putCondition 0 { soundCondition with grade := .deg } s
       (peerByte.tuple 1).better (deg.ownTuple 0) = true) := by decide +kernel

theorem witness_QueueMerges :
    TxQueue.Limited
        { urgent := [.release [{ service := 0, epoch := 5, reason := .leave }]], claims := [(0, 6)], status := true } ∧
      TxQueue.Limited
        { urgent :=
            [.object [{ service := 0, claimant := 1, claimEpoch := 6, holderEpoch := 5, cause := .ownerLive }],
              .release [{ service := 15, epoch := 5, reason := .leave }]]
          claims := [], status := false } ∧ TxQueue.Limited emptyQueue :=
  ⟨⟨by decide, by decide, by decide, by decide⟩, ⟨by decide, by decide, by decide, by decide⟩,
    ⟨by decide, by decide, by decide, by decide⟩⟩

/-! ## Witnesses: the host -/

theorem reset_blocks : State.reset.BlocksAgree where
  self := by decide +kernel
  grades := by decide +kernel
  classes := by decide +kernel
  ranks := by decide +kernel
  isolated := by decide +kernel
  receiving := by decide
  configTable := by intro _; decide +kernel
  configPeers := by intro _; decide +kernel
  listenTimer := by intro _; rfl
  statusTimer := by intro _ _; rfl

theorem atCode_entries {s : State} (h : ∀ n, s.EntryAgrees n) : ∀ n, (atCode s).EntryAgrees n := h

theorem atCode_blocks {s : State} (h : s.BlocksAgree) : (atCode s).BlocksAgree :=
  ⟨h.self, h.grades, h.classes, h.ranks, h.isolated, h.receiving, h.configTable, h.configPeers, h.listenTimer,
    h.statusTimer⟩

theorem atCode_tx {s : State} (h : s.TxConsistent) : (atCode s).TxConsistent :=
  ⟨⟨h.flight, h.agrees, h.backOff, h.deaf, h.queue, h.silent⟩, h.halted, h.drained⟩

theorem witness_StartEntersListen :
    let s := atCode State.reset
    s.host.txn = .data .write (.at 0x0D) ∧ s.station.phase = .config ∧ s.BlocksAgree ∧
      s.host.events.length + 17 ≤ 32 := ⟨rfl, rfl, atCode_blocks reset_blocks, by decide⟩

theorem witness_LeaveReleasesEverything :
    let s := atCode (demoWith heldEntry)
    s.host.txn = .data .write (.at 0x0D) ∧ s.station.phase = .active ∧ (∀ n, s.EntryAgrees n) ∧
      (∀ n, (atCode (demoWith (claimingEntry none (sentClaim .vacant)))).EntryAgrees n) :=
  ⟨rfl, rfl, atCode_entries (demoWith_entries held_agrees), atCode_entries (demoWith_entries vacantClaim_agrees)⟩

theorem witness_RestartClearsBlocks : (atCode demo).host.txn = .data .write (.at 0x0D) := rfl

theorem witness_HardResetClearsEverything :
    ∃ (rst : RstLevel) (id : StationId), rst = .high id ∨ (rst = .low ∧ id = demo.station.ownId) :=
  ⟨.high 15, 15, .inl rfl⟩

/-- The small station with a command argument. -/
def demoArg (v : Byte) (s : State) : State := s.withHost { s.host with argument := v }

theorem witness_RefusedCommands :
    (atCode demo).host.txn = .data .write (.at 0x0D) ∧
      (atCode State.reset).station.phase ≠ .listen ∧ (atCode State.reset).station.phase ≠ .active ∧
      (atCode demo).station.phase ≠ .config ∧
      15 < (demoArg 16 (atCode demo)).host.argument.toNat ∧
      (demoArg 15 (atCode demo)).host.argument.toNat = (15 : Service).val ∧ ((atCode demo).planOf 15).rank = 0 ∧
      (0x04 : Byte) ∉ [0x01, 0x02, 0x03, 0x10, 0x11, 0x12, (0x20 : Byte)] := by decide +kernel

theorem witness_OperatorRequests :
    let s := atCode demo
    (s.host.txn = .data .write (.at 0x0D) ∧ s.station.phase = .active ∧
      s.host.argument.toNat = (0 : Service).val ∧ (s.planOf 0).rank ≠ 0) ∧
      ((demoArg 15 s).host.argument.toNat = (15 : Service).val) ∧
      (∀ x ∈ [(Instr.force, 0x10, Request.force), (Instr.lockout, 0x11, Request.lockout),
          (Instr.clear, (0x12 : Byte), Request.none)],
        x ∈ [(Instr.force, 0x10, Request.force), (Instr.lockout, 0x11, Request.lockout),
          (Instr.clear, (0x12 : Byte), Request.none)]) := by decide +kernel

/-- An own claim under an operator request, with NORMAL or FORCE class at grade FAIL. -/
theorem witness_OperatorRequests_claim :
    (let s := atCode (demoWith (queuedClaim false))
     s.EntryAgrees 0 ∧ s.BlocksAgree ∧ (s.entry 0).state = .claiming ∧ (s.condition 0).cls = .normal) ∧
      (let s := atCode (putCondition 0
          { soundCondition with request := .force, cls := .force, debounced := .fail, grade := .fail }
          (demoWith (claimingEntry none (sentClaim .vacant))))
       s.host.txn = .data .write (.at 0x0D) ∧ (s.entry 0).state = .claiming ∧ (s.condition 0).cls = .force ∧
         ((after .clear s).condition 0).grade = .fail) :=
  ⟨⟨queuedClaim_agrees false, atCode_blocks (demoWith_blocks _), rfl, rfl⟩, by decide +kernel⟩

theorem witness_OperatorRequests_same :
    ((atCode demo).condition 0).request = .none ∧ (atCode demo).BlocksAgree ∧ (atCode demo).TxConsistent :=
  ⟨rfl, atCode_blocks demo_blocks, atCode_tx demo_tx⟩

theorem witness_LockoutReleases :
    let s := atCode (demoWith heldEntry)
    s.host.txn = .data .write (.at 0x0D) ∧ s.host.argument.toNat = (0 : Service).val ∧ (s.entry 0).state = .held ∧
      s.EntryAgrees 0 ∧ s.BlocksAgree :=
  ⟨rfl, rfl, rfl, held_agrees, atCode_blocks (demoWith_blocks heldEntry)⟩

theorem witness_LockoutReleases_others :
    (let s := atCode (demoWith remoteEntry)
     s.BlocksAgree ∧ s.station.phase = .active ∧ (s.entry 0).state = .remote ∧ (s.planOf 0).rank ≠ 0 ∧
       (s.condition 0).request ≠ .lockout) ∧
      (let s := atCode (demoWith (watchingEntry (watched .vacant)))
       s.BlocksAgree ∧ (s.entry 0).state = .watching) :=
  ⟨⟨atCode_blocks (demoWith_blocks _), rfl, rfl, by decide +kernel, by decide +kernel⟩,
    atCode_blocks (demoWith_blocks _), rfl⟩

theorem witness_ClearCountersClears : (atCode State.reset).host.txn = .data .write (.at 0x0D) := rfl

theorem witness_PlanWrites :
    (∀ a ∈ [(0x11 : BitVec 7), 0x12, 0x13, 0x14, 0x15, 0x16, 0x17],
      (atAddress .write (.at a) demo).host.txn = .data .write (.at a)) ∧
      ((15 : Byte).toNat = (15 : Service).val ∧ 15 < (16 : Byte).toNat) ∧ demo.station.phase ≠ .config ∧
      State.reset.station.phase = .config ∧
      (7 < (8 : Byte).toNat ∧ ¬7 < (7 : Byte).toNat) ∧
      (State.reset.planOf State.reset.host.planSelect).defined = false ∧
      (let s := demoIn .config demo
       (s.planOf s.host.planSelect).defined = true ∧ (0x03 : Byte).getLsbD 0 = true ∧ (0x02 : Byte).getLsbD 0 = false) :=
  by decide +kernel

theorem witness_SnapshotSelects :
    (15 : Byte).toNat = (15 : Fin 16).val ∧ 15 < (16 : Byte).toNat ∧ (0 : Fin 16) = demo.station.ownId ∧
      (15 : Fin 16) ≠ demo.station.ownId ∧
      ∀ a ∈ [(0x18 : BitVec 7), 0x2B, 0x4D], (atAddress .write (.at a) demo).host.txn = .data .write (.at a) := by
  decide +kernel

theorem witness_EventPops :
    let e := noneRecord 1
    let s := atAddress .read (.at 0x44) demo
    let full := s.withHost { s.host with events := List.replicate 32 e, lost := 255 }
    s.host.txn = .data .read (.at 0x44) ∧ s.host.events = [] ∧
      (s.withHost { s.host with events := [e] }).host.events = [e] ∧ s.host.lost = 0 ∧
      full.host.events = e :: List.replicate 31 e ∧ full.host.lost ≠ 0 := by decide +kernel

theorem witness_RegisterWrites :
    ∀ a ∈ [(0x00 : BitVec 7), 0x0B, 0x0E, 0x19, 0x2C, 0x44, 0x4C, 0x7E, 0x7F],
      a.toNat ∉ [0x0C, 0x0D, 0x0F, 0x10, 0x11, 0x12, 0x13, 0x14, 0x15, 0x16, 0x17, 0x18, 0x2B, 0x4D] ∧
        (atAddress .write (.at a) demo).host.txn = .data .write (.at a) := by decide +kernel

theorem witness_Transactions :
    demo.host.txn = .idle ∧ demo.rstLow = false ∧ (after .transactionBegin demo).host.txn = .address ∧
      (after .transactionBegin demo).host.txn ≠ .idle ∧ demo.host.txn ≠ .address ∧
      (after (.hardReset .low) demo).rstLow = true ∧ hostAddress .start = some (.at 0x0D) ∧
      (∀ dir, demo.host.txn ≠ .data dir (.at 0x0D)) :=
  ⟨rfl, rfl, rfl, by decide, by decide, rfl, rfl, nofun⟩

theorem witness_HostReads :
    let s := fun (v : Byte) => after (.addressByte v) (after .transactionBegin demo)
    demo.host.events.length ≤ 32 ∧ demo.tx.deafCount ≤ 3 ∧ (s 0x80).host.txn = .data .read (.at 0x00) ∧
      (HostAddress.at 0x00) ≠ .at 0x44 ∧ (s 0xC4).host.txn = .data .read (.at 0x44) ∧
      hostAddress (.registerWrite (.at 0x00) 0xFF) = some (.at 0x00) := by decide +kernel

theorem demo_can_record : demo.CanRecord 18 := by unfold State.CanRecord; decide

end Sys2Proof.Machine
end

/-! What a Timebase tick does to each part of the state (R1, R3, R4, R76, R78, R91, R108, R109). -/

namespace Sys2Proof.Machine

/-! ## The WTR timer at a tick (R4) -/

theorem WtrTimer.tick_of_seconds_eq_zero {w : WtrTimer} (hs : w.seconds = 0) : w.tick = w := by
  simp [WtrTimer.tick, hs]

theorem WtrTimer.tick_within_second {w : WtrTimer} (hs : w.seconds ≠ 0) (ht : w.ticks < 999) :
    w.tick = { w with ticks := w.ticks + 1 } := by
  have hlt : w.ticks + 1 < Config.ticksPerSecond := Nat.succ_lt_succ ht
  simp [WtrTimer.tick, hs, hlt]

theorem WtrTimer.tick_at_second_end {w : WtrTimer} (hs : w.seconds ≠ 0) (ht : 999 ≤ w.ticks) :
    w.tick = { seconds := w.seconds - 1, ticks := 0, due := decide (w.seconds = 1) } := by
  have hge : ¬w.ticks + 1 < Config.ticksPerSecond := Nat.not_lt.2 (Nat.succ_le_succ ht)
  simp [WtrTimer.tick, hs, hge]

/-! ## What is read after a tick -/

@[simp] theorem ServiceEntry.tick_wtr (e : ServiceEntry) : e.tick.wtr = e.wtr.map WtrTimer.tick := rfl

theorem tick_timebase_toNat (s : State) : (tick s).timebase.toNat = (s.timebase.toNat + 1) % 65536 :=
  BitVec.toNat_add s.timebase 1

@[simp] theorem tick_entry (s : State) (n : Service) : (tick s).entry n = (s.entry n).tick :=
  look_tabulate _ n

@[simp] theorem tick_condition (s : State) (n : Service) :
    (tick s).condition n = if s.station.phase = .config then s.condition n else (s.condition n).tick := by
  simp [tick, State.condition]

@[simp] theorem tick_peer (s : State) (p : StationId) :
    (tick s).peer p = if s.station.phase = .config then s.peer p else (s.peer p).tick := by
  simp [tick, State.peer]

@[simp] theorem tick_drv (s : State) : (tick s).oc.drv = s.oc.drv := by
  simp only [tick]

@[simp] theorem tick_isolated (s : State) : (tick s).peers.isolated = s.peers.isolated := by
  simp only [tick]

@[simp] theorem tick_clashCount (s : State) : (tick s).peers.clashCount = s.peers.clashCount := by
  simp only [tick]

/-! ## TIMEBASE_TICK -/

theorem exec_timebaseTick_of_rstLow {s : State} (h : s.rstLow = true) : exec .timebaseTick s = .next s := by
  change Host.Outcome.next (timebaseTick s) = .next s
  rw [timebaseTick, if_pos h]

theorem exec_timebaseTick_of_rstHigh {s : State} (h : s.rstLow = false) :
    exec .timebaseTick s = .next (tick s) := by
  change Host.Outcome.next (timebaseTick s) = .next (tick s)
  simp [timebaseTick, h]

/-- Settles O13: with RST high the state reached is `tick s`, read block by block; the WTR timer by the three cases of
its tick. -/
theorem tickCountsEveryTimer : Obligations.TickCountsEveryTimer := by
  refine ⟨fun _ h => exec_timebaseTick_of_rstLow h, fun s h =>
    ⟨tick s, exec_timebaseTick_of_rstHigh h, tick_timebase_toNat s, tick_drv s, fun n => ⟨?entry, ?absent, ?wtr⟩,
      tick_condition s, tick_peer s, tick_isolated s, tick_clashCount s, rfl, rfl, rfl, rfl, rfl, rfl, rfl⟩⟩
  case entry =>
    rw [tick_entry]
    rfl
  case absent =>
    intro hnone
    rw [tick_entry, ServiceEntry.tick_wtr, hnone, Option.map_none]
  case wtr =>
    intro w hw
    have hticked : ((tick s).entry n).wtr = some w.tick := by
      rw [tick_entry, ServiceEntry.tick_wtr, Option.mem_def.1 hw, Option.map_some]
    rw [hticked]
    exact ⟨fun hs => congrArg some (WtrTimer.tick_of_seconds_eq_zero hs),
      fun hs ht => congrArg some (WtrTimer.tick_within_second hs ht),
      fun hs ht => congrArg some (WtrTimer.tick_at_second_end hs ht)⟩

end Sys2Proof.Machine

/-! What one operation on entry `n` of the Service Table may touch, said once for every operation of the Ownership
Controller: `EntryStep n s t` keeps the other entries and the timers of entry `n` within their ranges (R2, R3, R4). -/

namespace Sys2Proof.Machine

/-! ## The other entries -/

theorem State.OtherEntries.refl (s : State) (n : Service) : s.OtherEntries s n := fun _ _ => ⟨rfl, rfl⟩

theorem State.OtherEntries.trans {s t u : State} {n : Service} (h : s.OtherEntries t n) (k : t.OtherEntries u n) :
    s.OtherEntries u n :=
  fun m hm => ⟨(k m hm).1.trans (h m hm).1, (k m hm).2.trans (h m hm).2⟩

theorem State.OtherEntries.of_oc {s t : State} (h : t.oc = s.oc) (n : Service) : s.OtherEntries t n :=
  fun m _ => ⟨by simp only [State.entry, h], by rw [h]⟩

/-- What an `OwnerStep` keeps is what the statements call `OnlyOwnership`. -/
theorem OwnerStep.onlyOwnership {s t : State} (h : OwnerStep s t) : s.OnlyOwnership t :=
  ⟨h.timebase, h.cond, h.peers, h.station, h.rx, h.tx, h.host, h.rstLow, h.pending, h.freeCount⟩

/-! ## Requests leave the Service Table and the Host Port alone -/

@[simp] theorem takeNext_oc (s : State) : (takeNext s).oc = s.oc := by rw [takeNext_fields]; rfl

@[simp] theorem takeNext_host (s : State) : (takeNext s).host = s.host := by rw [takeNext_fields]; rfl

@[simp] theorem enqueue_oc (f : TxQueue → TxQueue) (s : State) : (enqueue f s).oc = s.oc := by
  rw [enqueue_fields]; rfl

@[simp] theorem enqueue_host (f : TxQueue → TxQueue) (s : State) : (enqueue f s).host = s.host := by
  rw [enqueue_fields]; rfl

@[simp] theorem request_oc (f : TxQueue → TxQueue) (s : State) : (request f s).oc = s.oc := by simp [request]

@[simp] theorem request_host (f : TxQueue → TxQueue) (s : State) : (request f s).host = s.host := by simp [request]

/-! ## Entry `n` after the shared operations -/

/-- The entry depends on the Ownership Controller alone. -/
theorem entry_of_oc {s t : State} (h : t.oc = s.oc) (n : Service) : t.entry n = s.entry n := by
  simp only [State.entry, h]

@[simp] theorem post_entry (k : EventKind) (m : Option Service) (p : Option StationId) (e : Option Epoch)
    (d : Option Detail) (s : State) (n : Service) : (post k m p e d s).entry n = s.entry n := rfl

@[simp] theorem request_entry (f : TxQueue → TxQueue) (s : State) (n : Service) : (request f s).entry n = s.entry n :=
  entry_of_oc (request_oc f s) n

/-- An entry that keeps state, owner and epoch keeps its timestamp (R4). -/
theorem stamp_of_same {now : Word16} {a b : ServiceEntry} (hs : b.state = a.state) (ho : b.owner = a.owner)
    (he : b.epoch = a.epoch) : stamp now a b = { b with changed := a.changed } := by
  simp [stamp, hs, ho, he]

/-- An entry whose state, owner or epoch changes takes the Timebase count (R4). -/
theorem stamp_of_changed {now : Word16} {a b : ServiceEntry}
    (h : b.state ≠ a.state ∨ b.owner ≠ a.owner ∨ b.epoch ≠ a.epoch) : stamp now a b = { b with changed := now } := by
  have hn : ¬(b.state = a.state ∧ b.owner = a.owner ∧ b.epoch = a.epoch) := by tauto
  simp [stamp, hn]

theorem changeEntry_oc (n : Service) (e : ServiceEntry) (s : State) : (changeEntry n e s).oc = (putEntry n e s).oc := by
  simp only [changeEntry]
  split <;> rfl

@[simp] theorem changeEntry_entry_same (n : Service) (e : ServiceEntry) (s : State) :
    (changeEntry n e s).entry n = stamp s.timebase (s.entry n) e := by
  rw [entry_of_oc (changeEntry_oc n e s), putEntry_entry_same]

/-- A change that keeps owner and epoch posts nothing (R8). -/
theorem changeEntry_of_same {n : Service} {e : ServiceEntry} {s : State} (ho : e.owner = (s.entry n).owner)
    (he : e.epoch = (s.entry n).epoch) : changeEntry n e s = putEntry n e s := by
  simp [changeEntry, ho, he]

/-- A change of owner or epoch of an entry that is HELD neither before nor after posts OWNER_CHANGED (R8). -/
theorem changeEntry_of_changed {n : Service} {e : ServiceEntry} {s : State} (h1 : (s.entry n).state ≠ .held)
    (h2 : e.state ≠ .held) (h : (s.entry n).owner ≠ e.owner ∨ (s.entry n).epoch ≠ e.epoch) :
    changeEntry n e s = post .ownerChanged (some n) e.owner e.epoch none (putEntry n e s) := by
  simp only [changeEntry]
  rw [if_pos ⟨h1, h2, h⟩]

/-! ## The ranges of one entry -/

/-- The timers of a Service Table entry are in range (R3, R4). -/
def ServiceEntry.InRange (e : ServiceEntry) : Prop :=
  (∀ k ∈ e.retryHold, k ≤ 100) ∧ (∀ w ∈ e.wtr, w.seconds ≤ 255 ∧ w.ticks < 1000) ∧
    ∀ r ∈ e.record, ∀ k ∈ r.window, k ≤ 8

theorem ServiceEntry.InRange.stamp {now : Word16} {a b : ServiceEntry} (h : b.InRange) :
    (Machine.stamp now a b).InRange := by
  simpa [ServiceEntry.InRange] using h

/-- An operation on entry `n`: an `OwnerStep` that keeps the other entries and the ranges of entry `n`. -/
structure EntryStep (n : Service) (s t : State) : Prop where
  owner : OwnerStep s t
  others : s.OtherEntries t n
  range : (s.entry n).InRange → (t.entry n).InRange

namespace EntryStep

protected theorem refl (n : Service) (s : State) : EntryStep n s s := ⟨.refl s, .refl s n, id⟩

protected theorem trans {n : Service} {s t u : State} (h : EntryStep n s t) (k : EntryStep n t u) : EntryStep n s u :=
  ⟨h.owner.trans k.owner, h.others.trans k.others, k.range ∘ h.range⟩

/-- An action that leaves the table alone. -/
protected theorem elsewhere {s t : State} (h : OwnerStep s t) (ho : t.oc = s.oc) (n : Service) : EntryStep n s t :=
  ⟨h, .of_oc ho n, fun hr => by rw [entry_of_oc ho]; exact hr⟩

theorem inRange {n : Service} {s t : State} (h : EntryStep n s t) (hs : ∀ m, (s.entry m).InRange) (m : Service) :
    (t.entry m).InRange := by
  by_cases hm : m = n
  · subst hm; exact h.range (hs m)
  · rw [(h.others m hm).1]; exact hs m

end EntryStep

theorem post_entryStep (n : Service) (k : EventKind) (m : Option Service) (p : Option StationId) (e : Option Epoch)
    (d : Option Detail) (s : State) : EntryStep n s (post k m p e d s) := .elsewhere (post_step ..) rfl n

theorem request_entryStep (n : Service) {f : TxQueue → TxQueue} (hf : ∀ q, q.Limited → (f q).Limited) (s : State) :
    EntryStep n s (request f s) := .elsewhere (request_step hf s) (request_oc f s) n

theorem requestStatus_entryStep (n : Service) (s : State) : EntryStep n s (requestStatus s) :=
  request_entryStep n (fun _ h => h.addStatus) s

theorem requestRelease_entryStep (n m : Service) (e : Epoch) (r : ReleaseReason) (s : State) :
    EntryStep n s (requestRelease m e r s) := request_entryStep n (fun _ h => h.addRelease _) s

theorem requestObject_entryStep (n : Service) (x : ObjectEntry) (s : State) : EntryStep n s (requestObject x s) :=
  request_entryStep n (fun _ h => h.addObject x) s

theorem requestClaim_entryStep (n m : Service) (e : Epoch) (s : State) : EntryStep n s (requestClaim m e s) :=
  request_entryStep n (fun _ h => h.addClaim m e) s

theorem putEntry_others (n : Service) (e : ServiceEntry) (s : State) : s.OtherEntries (putEntry n e s) n :=
  fun _ hm => ⟨putEntry_entry_ne e s hm, putEntry_drv_ne e s hm⟩

theorem putEntry_entryStep {n : Service} {e : ServiceEntry} {s : State} (hr : (s.entry n).InRange → e.InRange) :
    EntryStep n s (putEntry n e s) :=
  ⟨putEntry_step .., putEntry_others n e s, fun h => by rw [putEntry_entry_same]; exact (hr h).stamp⟩

theorem changeEntry_entryStep {n : Service} {e : ServiceEntry} {s : State} (hr : (s.entry n).InRange → e.InRange) :
    EntryStep n s (changeEntry n e s) :=
  ⟨changeEntry_step .., (putEntry_others n e s).trans (.of_oc (changeEntry_oc ..) n),
    fun h => by rw [changeEntry_entry_same]; exact (hr h).stamp⟩

/-! ## The ranges under the changes that the operations make -/

namespace ServiceEntry.InRange
variable {e : ServiceEntry} (h : e.InRange)
include h

theorem withoutRecord : ServiceEntry.InRange { e with record := none } := ⟨h.1, h.2.1, by simp⟩

theorem withoutWtr : ServiceEntry.InRange { e with wtr := none } := ⟨h.1, by simp, h.2.2⟩

theorem withHold : ServiceEntry.InRange { e with retryHold := some Config.retryHold } :=
  ⟨by simp [Config.retryHold], h.2.1, h.2.2⟩

theorem withRecord {r : ClaimRecord} (hr : ∀ k ∈ r.window, k ≤ 8) : ServiceEntry.InRange { e with record := some r } :=
  ⟨h.1, h.2.1, by rintro _ ⟨⟩; exact hr⟩

theorem window {r : ClaimRecord} (hr : e.record = some r) : ∀ k ∈ r.window, k ≤ 8 := h.2.2 r hr

end ServiceEntry.InRange

theorem watchedRecord_window (p : StationId) (c : ClaimBody) : ∀ k ∈ (watchedRecord p c).window, k ≤ 8 := by
  rintro _ ⟨⟩; exact le_refl 8

/-! ## What an evaluation does (R14 to R18) -/

/-- The outcomes of an evaluation of service `n`: nothing, the WTR timer removed or started, or an own claim of a
candidate queued, which needs that no retry hold runs (R15). -/
inductive Evaluation (n : Service) (s : State) : State → Prop where
  | same : Evaluation n s s
  | removed : Evaluation n s (removeWtr n s)
  | started : Evaluation n s (startWtr n s)
  | claimed (e : Epoch) (m : ClaimMode) (hc : s.ownCandidate n = true) (hs : (s.entry n).state ≠ .held)
      (hr : (s.entry n).retryHold = none) : Evaluation n s (queueOwnClaim n e m s)

theorem ownCandidate_of_ownBest {s : State} {n : Service} (h : s.ownBest n = true) : s.ownCandidate n = true := by
  simp only [State.ownBest, Bool.and_eq_true] at h
  exact h.1

theorem evaluateFree_evaluation {n : Service} {s : State} (hs : (s.entry n).state ≠ .held) :
    Evaluation n s (evaluateFree n s) := by
  simp only [evaluateFree]
  split
  · next h => exact .claimed _ _ (ownCandidate_of_ownBest h.1) hs h.2.1
  · exact .removed

theorem evaluateRemote_evaluation {n : Service} {s : State} (p : StationId) (b : ServiceByte)
    (hs : (s.entry n).state ≠ .held) : Evaluation n s (evaluateRemote n p b s) := by
  simp only [evaluateRemote]
  split
  · next h => exact .claimed _ _ (ownCandidate_of_ownBest h.1) hs h.2.2
  · split
    · next h =>
      split
      · exact .started
      · split
        · next hw =>
          have hb : s.ownBest n = true := by
            have := h.1
            simp only [State.revertiveTest, Bool.and_eq_true] at this
            exact this.1
          exact .claimed _ _ (ownCandidate_of_ownBest hb) hs hw.2
        · exact .same
    · exact .removed

theorem evaluateWatching_evaluation {n : Service} {s : State} (r : ClaimRecord) (hs : (s.entry n).state ≠ .held) :
    Evaluation n s (evaluateWatching n r s) := by
  simp only [evaluateWatching]
  split
  · next h => exact .claimed _ _ h.2.1 hs h.2.2.2.1
  · exact .same

theorem evaluate_evaluation (n : Service) (s : State) : Evaluation n s (evaluate n s) := by
  simp only [evaluate]
  split
  · exact .same
  · split
    · next h => exact evaluateFree_evaluation (by simp [h])
    · next h => exact evaluateFree_evaluation (by simp [h])
    · next h =>
      split
      · split
        · exact evaluateRemote_evaluation _ _ (by simp [h])
        · exact .removed
      · exact .removed
    · exact .removed
    · exact .same
    · next h =>
      split
      · exact evaluateWatching_evaluation _ (by simp [h])
      · exact .same

/-- Outside ACTIVE an evaluation has no effect (R15). -/
theorem evaluate_of_not_active {n : Service} {s : State} (h : s.station.phase ≠ .active) : evaluate n s = s := by
  simp only [evaluate]
  rw [if_pos h]

theorem removeWtr_entry (n : Service) (s : State) : (removeWtr n s).entry n = { s.entry n with wtr := none } := by
  rw [removeWtr, putEntry_entry_same]
  exact stamp_of_same rfl rfl rfl

theorem startWtr_entry (n : Service) (s : State) :
    (startWtr n s).entry n =
      { s.entry n with wtr := some { seconds := (s.planOf n).wtr.toNat, ticks := 0, due := false } } := by
  rw [startWtr, putEntry_entry_same]
  exact stamp_of_same rfl rfl rfl

theorem queueOwnClaim_entry (n : Service) (e : Epoch) (m : ClaimMode) (s : State) :
    (queueOwnClaim n e m s).entry n =
      stamp s.timebase (s.entry n)
        { s.entry n with state := .claiming, record := some (s.ownRecord n e m), wtr := none } := by
  rw [queueOwnClaim, requestClaim, request_entry, putEntry_entry_same]

theorem removeWtr_entryStep (n : Service) (s : State) : EntryStep n s (removeWtr n s) :=
  putEntry_entryStep fun h => h.withoutWtr

theorem startWtr_entryStep (n : Service) (s : State) : EntryStep n s (startWtr n s) :=
  putEntry_entryStep fun h => ⟨h.1, by
    rintro _ ⟨⟩
    exact ⟨Nat.le_of_lt_succ (s.planOf n).wtr.isLt, Nat.zero_lt_succ _⟩, h.2.2⟩

theorem queueOwnClaim_entryStep (n : Service) (e : Epoch) (m : ClaimMode) (s : State) :
    EntryStep n s (queueOwnClaim n e m s) := by
  refine .trans ?_ (requestClaim_entryStep n n e _)
  exact putEntry_entryStep fun h => h.withoutWtr.withRecord (by simp [State.ownRecord])

namespace Evaluation
variable {n : Service} {s t : State}

theorem entryStep (h : Evaluation n s t) : EntryStep n s t := by
  cases h with
  | same => exact .refl n s
  | removed => exact removeWtr_entryStep n s
  | started => exact startWtr_entryStep n s
  | claimed e m => exact queueOwnClaim_entryStep n e m s

theorem host (h : Evaluation n s t) : t.host = s.host := by
  cases h with
  | same => rfl
  | removed => rfl
  | started => rfl
  | claimed e m => simp [queueOwnClaim, requestClaim]

theorem owner_epoch (h : Evaluation n s t) :
    (t.entry n).owner = (s.entry n).owner ∧ (t.entry n).epoch = (s.entry n).epoch := by
  cases h with
  | same => exact ⟨rfl, rfl⟩
  | removed => rw [removeWtr_entry]; exact ⟨rfl, rfl⟩
  | started => rw [startWtr_entry]; exact ⟨rfl, rfl⟩
  | claimed e m => rw [queueOwnClaim_entry, stamp_owner, stamp_epoch]; exact ⟨rfl, rfl⟩

/-- While a retry hold runs an evaluation queues nothing and touches the WTR timer alone (R15). -/
theorem of_held_back (h : Evaluation n s t) (hr : (s.entry n).retryHold ≠ none) :
    t.tx = s.tx ∧ t.entry n = { s.entry n with wtr := (t.entry n).wtr } := by
  cases h with
  | same => exact ⟨rfl, rfl⟩
  | removed => rw [removeWtr_entry]; exact ⟨rfl, rfl⟩
  | started => rw [startWtr_entry]; exact ⟨rfl, rfl⟩
  | claimed e m hc hs hn => exact absurd hn hr

end Evaluation

theorem evaluate_entryStep (n : Service) (s : State) : EntryStep n s (evaluate n s) :=
  (evaluate_evaluation n s).entryStep

@[simp] theorem evaluate_host (n : Service) (s : State) : (evaluate n s).host = s.host := (evaluate_evaluation n s).host

@[simp] theorem evaluate_owner (n : Service) (s : State) : ((evaluate n s).entry n).owner = (s.entry n).owner :=
  (evaluate_evaluation n s).owner_epoch.1

@[simp] theorem evaluate_epoch (n : Service) (s : State) : ((evaluate n s).entry n).epoch = (s.entry n).epoch :=
  (evaluate_evaluation n s).owner_epoch.2

/-- A HELD entry loses its WTR timer alone (Table 1-7). -/
theorem evaluate_of_held {n : Service} {s : State} (h : (s.entry n).state = .held) :
    evaluate n s = s ∨ evaluate n s = removeWtr n s := by
  simp only [evaluate, h]
  split
  · exact .inl rfl
  · exact .inr rfl

end Sys2Proof.Machine

/-! Every operation of the Ownership Controller on one service is an `EntryStep` of that service. -/

namespace Sys2Proof.Machine

/-! ## The claim exchange -/

theorem dropRecord_entryStep (n : Service) (s : State) : EntryStep n s (dropRecord n s) :=
  changeEntry_entryStep fun h => h.withoutRecord

theorem failOwnClaim_entryStep (n : Service) (r : ClaimRecord) (c : FailCause) (p : Option StationId) (s : State) :
    EntryStep n s (failOwnClaim n r c p s) :=
  (post_entryStep ..).trans (changeEntry_entryStep fun h => h.withoutRecord.withHold)

theorem acceptOwnClaim_entryStep (n : Service) (r : ClaimRecord) (s : State) :
    EntryStep n s (acceptOwnClaim n r s) := by
  refine .trans (.trans (.trans ?_ (requestStatus_entryStep n _)) (post_entryStep ..)) (evaluate_entryStep ..)
  exact putEntry_entryStep fun h => h.withoutRecord

theorem acceptWatchedClaim_entryStep (n : Service) (r : ClaimRecord) (s : State) :
    EntryStep n s (acceptWatchedClaim n r s) := by
  refine .trans ?_ (evaluate_entryStep ..)
  exact changeEntry_entryStep fun h => h.withoutRecord

theorem endWindow_entryStep (n : Service) (r : ClaimRecord) (s : State) : EntryStep n s (endWindow n r s) := by
  unfold endWindow
  split
  · split
    · exact (failOwnClaim_entryStep ..).trans (evaluate_entryStep ..)
    · exact acceptOwnClaim_entryStep ..
  · split
    · exact (dropRecord_entryStep ..).trans (evaluate_entryStep ..)
    · exact acceptWatchedClaim_entryStep ..

/-- The own claim that an entry carries (R20). -/
theorem ownClaimAt_some {s : State} {n : Service} {e : Epoch} {r : ClaimRecord} (h : s.ownClaimAt n e = some r) :
    (s.entry n).record = some r ∧ (s.entry n).state = .claiming ∧ r.claimant = s.station.ownId ∧ r.epoch = e := by
  simp only [State.ownClaimAt] at h
  split at h
  · next x hx =>
    split at h
    · next hc =>
      obtain rfl := Option.some.inj h
      exact ⟨hx, hc⟩
    · cases h
  · cases h

theorem claimSentClean_entryStep (n : Service) (e : Epoch) (s : State) : EntryStep n s (claimSentClean n e s) := by
  simp only [claimSentClean]
  split
  · next r hr =>
    have hput : ∀ x : ClaimRecord, x.window = some Config.claimWindow →
        EntryStep n s (putEntry n { s.entry n with record := some x } s) := fun x hx =>
      putEntry_entryStep fun h => h.withRecord (by rw [hx]; rintro _ ⟨⟩; exact le_refl 8)
    split
    · exact (hput _ rfl).trans (endWindow_entryStep ..)
    · exact hput _ rfl
  · split
    · exact requestRelease_entryStep ..
    · exact .refl n s

theorem claimGivenUp_entryStep (n : Service) (e : Epoch) (s : State) : EntryStep n s (claimGivenUp n e s) := by
  unfold claimGivenUp
  split
  · exact (failOwnClaim_entryStep ..).trans (evaluate_entryStep ..)
  · exact .refl n s

theorem withdrawOwn_entryStep (n : Service) (s : State) : EntryStep n s (withdrawOwn n s) := by
  unfold withdrawOwn
  split
  · next r _ _ =>
    refine .trans ?_ (evaluate_entryStep ..)
    have hfail : EntryStep n s (withdrawClaim n r s).1 := failOwnClaim_entryStep ..
    split
    · exact hfail.trans (request_entryStep n (fun _ h => h.addRelease _) _)
    · exact hfail
  · exact .refl n s

theorem leaveHeld_entryStep {n : Service} {k : Option Nat} {s : State}
    (hk : k = (s.entry n).retryHold ∨ k = some Config.retryHold) (o : Option StationId) (e : Option Epoch)
    (st : EntryState) (r : DropReason) : EntryStep n s (leaveHeld n o e st k r s) := by
  refine .trans ?_ (post_entryStep ..)
  refine putEntry_entryStep fun h => ?_
  rcases hk with rfl | rfl
  · exact h
  · exact h.withHold

theorem releaseOnLockout_entryStep (n : Service) (s : State) : EntryStep n s (releaseOnLockout n s) :=
  ((leaveHeld_entryStep (.inl rfl) ..).trans (requestRelease_entryStep ..)).trans (evaluate_entryStep ..)

theorem handOver_entryStep (p : StationId) (c : ClaimBody) (s : State) : EntryStep c.service s (handOver p c s) :=
  ((leaveHeld_entryStep (.inr rfl) ..).trans (requestRelease_entryStep ..)).trans (evaluate_entryStep ..)

theorem judgeTakeover_entryStep (p : StationId) (c : ClaimBody) (s : State) :
    EntryStep c.service s (judgeTakeover p c s) := by
  unfold judgeTakeover
  split
  · exact requestObject_entryStep ..
  · split
    · exact requestObject_entryStep ..
    · exact handOver_entryStep ..

theorem recordClaim_entryStep (p : StationId) (c : ClaimBody) (s : State) :
    EntryStep c.service s (recordClaim p c s) := by
  refine .trans ?_ (evaluate_entryStep ..)
  exact putEntry_entryStep fun h => h.withRecord (watchedRecord_window p c)

theorem compareClaim_entryStep (p : StationId) (c : ClaimBody) (r : ClaimRecord) (s : State) :
    EntryStep c.service s (compareClaim p c r s) := by
  simp only [compareClaim]
  split
  · exact .refl _ s
  · split
    · refine .trans (.trans ?_ (post_entryStep ..)) (evaluate_entryStep ..)
      exact putEntry_entryStep fun h => (h.withRecord (watchedRecord_window p c)).withHold
    · exact putEntry_entryStep fun h => h.withRecord (watchedRecord_window p c)

theorem receiveClaim_entryStep (p : StationId) (c : ClaimBody) (s : State) :
    EntryStep c.service s (receiveClaim p c s) := by
  simp only [receiveClaim]
  split
  · exact .refl _ s
  · split
    · exact .refl _ s
    · split
      · split
        · exact judgeTakeover_entryStep ..
        · exact requestObject_entryStep ..
      · split
        · exact .refl _ s
        · split
          · exact .refl _ s
          · split
            · exact recordClaim_entryStep ..
            · exact compareClaim_entryStep ..

/-! ## RELEASE and OBJECT -/

theorem receiveWithdraw_entryStep (p : StationId) (x : ReleaseEntry) (s : State) :
    EntryStep x.service s (receiveWithdraw p x s) := by
  unfold receiveWithdraw
  split
  · split
    · exact (dropRecord_entryStep ..).trans (evaluate_entryStep ..)
    · exact .refl _ s
  · exact .refl _ s

theorem releaseByOwner_entryStep (p : StationId) (x : ReleaseEntry) (s : State) :
    EntryStep x.service s (releaseByOwner p x s) := by
  simp only [releaseByOwner]
  split
  · split
    · refine .trans ?_ (evaluate_entryStep ..)
      exact changeEntry_entryStep id
    · exact changeEntry_entryStep id
  · exact .refl _ s

theorem answerRecord_entryStep {n : Service} {r : ClaimRecord} {s : State} (hr : (s.entry n).record = some r) :
    EntryStep n s (answerRecord n r s) := by
  have hput : EntryStep n s (putEntry n { s.entry n with record := some { r with releaseHeard := true } } s) :=
    putEntry_entryStep fun h => h.withRecord (h.window hr :)
  simp only [answerRecord]
  split
  · exact hput.trans (endWindow_entryStep ..)
  · exact hput

theorem receiveRelease_entryStep (p : StationId) (x : ReleaseEntry) (s : State) :
    EntryStep x.service s (receiveRelease p x s) := by
  unfold receiveRelease
  split
  · exact .refl _ s
  · split
    · exact receiveWithdraw_entryStep ..
    · split
      · next r hr =>
        split
        · exact answerRecord_entryStep hr
        · exact releaseByOwner_entryStep ..
      · exact releaseByOwner_entryStep ..

theorem objectedEntry_cases (p : StationId) (x : ObjectEntry) (e : ServiceEntry) :
    objectedEntry p x e = e ∨ objectedEntry p x e = { e with owner := some p, epoch := some x.holderEpoch } := by
  unfold objectedEntry
  split
  · exact .inr rfl
  · exact .inl rfl

theorem objectedEntry_inRange (p : StationId) (x : ObjectEntry) {e : ServiceEntry} (h : e.InRange) :
    (objectedEntry p x e).InRange := by
  rcases objectedEntry_cases p x e with he | he <;> rw [he] <;> exact h

theorem receiveObject_entryStep (p : StationId) (x : ObjectEntry) (s : State) :
    EntryStep x.service s (receiveObject p x s) := by
  simp only [receiveObject]
  split
  · exact .refl _ s
  · split
    · split
      · split
        · refine .trans ?_ (evaluate_entryStep ..)
          exact (post_entryStep ..).trans
            (changeEntry_entryStep fun h => (objectedEntry_inRange p x h).withoutRecord.withHold)
        · refine .trans ?_ (evaluate_entryStep ..)
          exact changeEntry_entryStep fun h => (objectedEntry_inRange p x h).withoutRecord
      · exact .refl _ s
    · exact .refl _ s

/-! ## Reports of peer state and reconciliation -/

theorem settleForPeer_entryStep (p : StationId) (n : Service) (s : State) : EntryStep n s (settleForPeer p n s) := by
  simp only [settleForPeer]
  split
  · split
    · exact dropRecord_entryStep ..
    · exact .refl n s
  · split
    · exact changeEntry_entryStep id
    · exact .refl n s

theorem departEntry_entryStep (p : StationId) (n : Service) (s : State) : EntryStep n s (departEntry p n s) := by
  simp only [departEntry]
  split
  · refine .trans ?_ (settleForPeer_entryStep p n _)
    exact changeEntry_entryStep id
  · exact settleForPeer_entryStep ..

theorem adopt_entryStep (n : Service) (p : StationId) (f : Epoch) (s : State) : EntryStep n s (adopt n p f s) :=
  changeEntry_entryStep fun h => h.withoutRecord

theorem settleDualHold_entryStep (n : Service) (p : StationId) (f : Epoch) (t : ClaimTuple) (s : State) :
    EntryStep n s (settleDualHold n p f t s) := by
  have hlost : EntryStep n s (supersede n p f s) := leaveHeld_entryStep (.inr rfl) ..
  have hwon : ∀ g, EntryStep n s (winDualHold n p g s) := fun _ =>
    (requestStatus_entryStep ..).trans (post_entryStep ..)
  unfold settleDualHold
  split
  · exact hlost
  · exact hwon _
  · split
    · exact hlost
    · exact hwon _

theorem reconcileRemote_entryStep (n : Service) (p q : StationId) (f : Epoch) (t : ClaimTuple) (s : State) :
    EntryStep n s (reconcileRemote n p q f t s) := by
  unfold reconcileRemote
  split
  · exact adopt_entryStep ..
  · exact .refl n s
  · split
    · split
      · exact adopt_entryStep ..
      · exact .refl n s
    · exact .refl n s

/-- Hearing a STATUS changes the holder listing alone (R3). -/
theorem ClaimRecord.hear_eq (r : ClaimRecord) (p : StationId) (l : Option Epoch) :
    r.hear p l = { r with listing := (r.hear p l).listing } := by
  unfold ClaimRecord.hear
  split <;> rfl

theorem reconcile_entryStep (n : Service) (p : StationId) (b : StatusBody) (s : State) :
    EntryStep n s (reconcile n p b s) := by
  simp only [reconcile]
  split
  · next r hr => exact putEntry_entryStep fun h => h.withRecord (by rw [ClaimRecord.hear_eq]; exact (h.window hr :))
  · split
    · split
      · split
        · exact .refl n s
        · exact changeEntry_entryStep id
      · exact changeEntry_entryStep id
    · split
      · exact .refl n s
      · split
        · split
          · exact settleDualHold_entryStep ..
          · exact .refl n s
        · exact adopt_entryStep ..
        · exact adopt_entryStep ..
        · split
          · exact reconcileRemote_entryStep ..
          · exact .refl n s
        · exact .refl n s
        · exact .refl n s

theorem reconcileDefined_entryStep (n : Service) (p : StationId) (b : StatusBody) (s : State) :
    EntryStep n s (reconcileDefined n p b s) := by
  unfold reconcileDefined
  split
  · exact reconcile_entryStep ..
  · exact .refl n s

theorem statusService_entryStep (p : StationId) (b : StatusBody) (marks : Table Bool) (n : Service) (s : State) :
    EntryStep n s (statusService p b marks n s) := by
  simp only [statusService]
  split
  · exact (reconcileDefined_entryStep ..).trans (evaluate_entryStep ..)
  · exact reconcileDefined_entryStep ..

/-! ## Phase changes and reports of the Condition Monitor -/

theorem leaveEntry_entryStep (n : Service) (s : State) : EntryStep n s (leaveEntry n s).1 := by
  unfold leaveEntry
  dsimp only
  split
  · exact (leaveHeld_entryStep (.inl rfl) ..).trans (removeWtr_entryStep ..)
  · next r _ _ =>
    have hfail : EntryStep n s (withdrawClaim n r s).1 := failOwnClaim_entryStep ..
    exact hfail.trans (removeWtr_entryStep ..)
  · exact removeWtr_entryStep ..

theorem muteEntry_entryStep (n : Service) (s : State) : EntryStep n s (muteEntry n s) := by
  simp only [muteEntry]
  split
  · exact (leaveHeld_entryStep (.inl rfl) ..).trans (removeWtr_entryStep ..)
  · exact (dropRecord_entryStep ..).trans (removeWtr_entryStep ..)
  · exact removeWtr_entryStep ..

theorem withdrawIfDue_entryStep (n : Service) (old : ServiceCondition) (s : State) :
    EntryStep n s (withdrawIfDue n old s) := by
  unfold withdrawIfDue
  split
  · exact withdrawOwn_entryStep ..
  · exact .refl n s

theorem releaseIfLocked_entryStep (n : Service) (s : State) : EntryStep n s (releaseIfLocked n s) := by
  unfold releaseIfLocked
  split
  · exact releaseOnLockout_entryStep ..
  · exact .refl n s

theorem wtrRunsOut_entryStep (n : Service) (s : State) : EntryStep n s (wtrRunsOut n s) := by
  unfold wtrRunsOut
  split
  · next w hw =>
    split
    · refine .trans ?_ (evaluate_entryStep ..)
      exact putEntry_entryStep fun h => ⟨h.1, by rintro _ ⟨⟩; exact h.2.1 w hw, h.2.2⟩
    · exact .refl n s
  · exact .refl n s

theorem retryRunsOut_entryStep (n : Service) (s : State) : EntryStep n s (retryRunsOut n s) := by
  unfold retryRunsOut
  split
  · refine .trans ?_ (evaluate_entryStep ..)
    exact putEntry_entryStep fun h => ⟨by simp, h.2⟩
  · exact .refl n s

theorem windowRunsOut_entryStep (n : Service) (s : State) : EntryStep n s (windowRunsOut n s) := by
  unfold windowRunsOut
  split
  · split
    · exact endWindow_entryStep ..
    · exact .refl n s
  · exact .refl n s

end Sys2Proof.Machine

/-! How every operation on one service keeps its entry in agreement with the station, the LIVE peers and the plan
(R3, R5, R6, R7, R27). -/

namespace Sys2Proof.Machine

/-! ## What an agreeing entry says -/

namespace ServiceEntry.Agrees
variable {own : StationId} {live : StationId → Bool} {may : Prop} {e : ServiceEntry}

/-- Agreement reads state, owner and record alone. -/
theorem of_fields {e' : ServiceEntry} (hs : e'.state = e.state) (ho : e'.owner = e.owner) (hr : e'.record = e.record)
    (h : e.Agrees own live may) : e'.Agrees own live may := by
  unfold ServiceEntry.Agrees at h ⊢
  rw [hs, ho, hr]
  exact h

theorem held_iff (h : e.Agrees own live may) : e.state = .held ↔ e.owner = some own := by
  unfold ServiceEntry.Agrees at h
  cases hs : e.state <;> simp only [hs] at h
  case vacant => simp [h.1]
  case held => simp [h.1]
  case remote => obtain ⟨-, p, hp, hne, -⟩ := h; simp [hp, hne]
  case orphaned => obtain ⟨-, p, hp, hne, -⟩ := h; simp [hp, hne]
  case claiming => simp [h.1]
  case watching => simp [h.1]

/-- An entry that is not HELD has another owner or none (R5, R6). -/
theorem owner_ne (h : e.Agrees own live may) (hs : e.state ≠ .held) : e.owner ≠ some own :=
  fun ho => hs (h.held_iff.2 ho)

theorem may_of_claiming (h : e.Agrees own live may) (hs : e.state = .claiming) : may := by
  simp only [ServiceEntry.Agrees, hs] at h
  exact h.2.1

/-- An entry with a record is CLAIMING with an own claim or WATCHING with a LIVE peer's (Table 1-4, R27). -/
theorem of_record {r : ClaimRecord} (h : e.Agrees own live may) (hr : e.record = some r) :
    e.owner ≠ some own ∧ r.Fit ∧
      ((e.state = .claiming ∧ r.claimant = own ∧ may ∧ r.OwnTimes) ∨
        (e.state = .watching ∧ r.claimant ≠ own ∧ live r.claimant = true ∧ r.WatchedTimes)) := by
  unfold ServiceEntry.Agrees at h
  cases hs : e.state <;> simp only [hs, hr] at h
  case vacant => cases h.2
  case held => cases h.2.1
  case remote => cases h.1
  case orphaned => cases h.1
  case claiming =>
    obtain ⟨ho, hm, x, hx, hc, hf, ht⟩ := h
    obtain rfl := Option.some.inj hx
    exact ⟨ho, hf, .inl ⟨rfl, hc, hm, ht⟩⟩
  case watching =>
    obtain ⟨ho, x, hx, hc, hl, hf, ht⟩ := h
    obtain rfl := Option.some.inj hx
    exact ⟨ho, hf, .inr ⟨rfl, hc, hl, ht⟩⟩

theorem record_of_held (h : e.Agrees own live may) (hs : e.state = .held) : e.record = none := by
  simp only [ServiceEntry.Agrees, hs] at h
  exact h.2.1

/-- A CLAIMING or WATCHING entry carries a record. -/
theorem record_ne_none (h : e.Agrees own live may) (hs : e.state = .claiming ∨ e.state = .watching) :
    e.record ≠ none := by
  rcases hs with hs | hs
  · simp only [ServiceEntry.Agrees, hs] at h
    obtain ⟨-, -, r, hr, -⟩ := h
    simp [hr]
  · simp only [ServiceEntry.Agrees, hs] at h
    obtain ⟨-, r, hr, -⟩ := h
    simp [hr]

/-- An own claim's entry. -/
theorem claiming {r : ClaimRecord} (ho : e.owner ≠ some own) (hm : may) (hs : e.state = .claiming)
    (hr : e.record = some r) (hc : r.claimant = own) (hf : r.Fit) (ht : r.OwnTimes) : e.Agrees own live may := by
  simp only [ServiceEntry.Agrees, hs]
  exact ⟨ho, hm, r, hr, hc, hf, ht⟩

/-- A watched claim's entry. -/
theorem watching {r : ClaimRecord} (ho : e.owner ≠ some own) (hs : e.state = .watching) (hr : e.record = some r)
    (hc : r.claimant ≠ own) (hl : live r.claimant = true) (hf : r.Fit) (ht : r.WatchedTimes) :
    e.Agrees own live may := by
  simp only [ServiceEntry.Agrees, hs]
  exact ⟨ho, r, hr, hc, hl, hf, ht⟩

theorem vacant (ho : e.owner = none) (hs : e.state = .vacant) (hr : e.record = none) : e.Agrees own live may := by
  simp only [ServiceEntry.Agrees, hs]
  exact ⟨ho, hr⟩

theorem held (ho : e.owner = some own) (hs : e.state = .held) (hr : e.record = none) (hm : may) :
    e.Agrees own live may := by
  simp only [ServiceEntry.Agrees, hs]
  exact ⟨ho, hr, hm⟩

/-- An entry without a record in the state that its owner, another station or none, gives (Table 1-5). -/
theorem settled {s : State} (ho : e.owner ≠ some s.station.ownId) (hs : e.state = s.settledState e.owner)
    (hr : e.record = none) : e.Agrees s.station.ownId s.isLive may := by
  cases hp : e.owner with
  | none => exact .vacant hp (by rw [hs, hp]; rfl) hr
  | some p =>
    have hne : p ≠ s.station.ownId := fun heq => ho (by rw [hp, heq])
    rw [hp] at hs
    simp only [State.settledState] at hs
    split at hs
    · next hl =>
      simp only [ServiceEntry.Agrees, hs]
      exact ⟨hr, p, hp, hne, hl⟩
    · next hl =>
      simp only [ServiceEntry.Agrees, hs]
      exact ⟨hr, p, hp, hne, by simpa using hl⟩

end ServiceEntry.Agrees

/-- Settling an entry that another station owns, or none (R7). -/
theorem settled_agrees {s : State} {e : ServiceEntry} {may : Prop} (ho : e.owner ≠ some s.station.ownId) :
    (s.settled e).Agrees s.station.ownId s.isLive may := .settled ho rfl rfl

/-! ## Agreement after a step -/

theorem OwnerStep.mayHold {s t : State} (h : OwnerStep s t) (n : Service) : t.MayHold n ↔ s.MayHold n := by
  simp only [State.MayHold, h.station, h.planOf, h.condition]

/-- An operation that leaves an entry alone keeps its agreement. -/
theorem OwnerStep.agrees {s t : State} {n : Service} (h : OwnerStep s t) (he : t.entry n = s.entry n)
    (ha : s.EntryAgrees n) : t.EntryAgrees n :=
  EntryAgrees.congr he (by rw [h.station]) h.isLive (h.mayHold n).2 ha

/-- An operation on entry `n` that keeps the agreement of entry `n` keeps that of every entry. -/
theorem EntryStep.agrees {n : Service} {s t : State} (h : EntryStep n s t) (hn : t.EntryAgrees n)
    (ha : ∀ m, s.EntryAgrees m) (m : Service) : t.EntryAgrees m := by
  by_cases hm : m = n
  · subst hm; exact hn
  · exact h.owner.agrees (h.others m hm).1 (ha m)

theorem putEntry_agrees {n : Service} {e : ServiceEntry} {s : State}
    (h : e.Agrees s.station.ownId s.isLive (s.MayHold n)) : (putEntry n e s).EntryAgrees n := by
  have he : ((putEntry n e s).entry n).Agrees s.station.ownId s.isLive (s.MayHold n) := by
    rw [putEntry_entry_same]
    exact h.of_fields (stamp_state ..) (stamp_owner ..) (stamp_record ..)
  exact he

theorem changeEntry_agrees {n : Service} {e : ServiceEntry} {s : State}
    (h : e.Agrees s.station.ownId s.isLive (s.MayHold n)) : (changeEntry n e s).EntryAgrees n := by
  have hp := putEntry_agrees h
  simp only [changeEntry]
  split
  · exact (post_step ..).agrees rfl hp
  · exact hp

theorem request_agrees {n : Service} {f : TxQueue → TxQueue} (hf : ∀ q, q.Limited → (f q).Limited) {s : State}
    (h : s.EntryAgrees n) : (request f s).EntryAgrees n := (request_step hf s).agrees (request_entry f s n) h

theorem post_agrees {n : Service} {s : State} (k : EventKind) (m : Option Service) (p : Option StationId)
    (e : Option Epoch) (d : Option Detail) (h : s.EntryAgrees n) : (post k m p e d s).EntryAgrees n :=
  (post_step ..).agrees rfl h

/-! ## Evaluation -/

/-- The published grade of each service is the one that plan, condition and request give (R79). -/
def State.GradesAgree (s : State) : Prop :=
  ∀ n, (s.condition n).grade = formGrade (s.planOf n) (s.condition n).debounced (s.condition n).request

theorem OwnerStep.gradesAgree {s t : State} (h : OwnerStep s t) (hg : s.GradesAgree) : t.GradesAgree := by
  intro n
  rw [h.condition, h.planOf]
  exact hg n

/-- A grade other than UNAV needs a defined service, a rank and no LOCKOUT (R79, case 1). -/
theorem formGrade_ne_unav {p : PlanRecord} {c : Condition} {r : Request} (h : formGrade p c r ≠ .unav) :
    p.defined = true ∧ p.rank ≠ 0 ∧ r ≠ .lockout := by
  unfold formGrade at h
  split at h
  · exact absurd rfl h
  · next hn => simpa [not_or] using hn

/-- A candidate may hold its service, and its own record is fit (R3, R6, R12). -/
theorem State.GradesAgree.candidate {s : State} {n : Service} (hg : s.GradesAgree) (h : s.ownCandidate n = true) :
    s.MayHold n ∧ ∀ e m, (s.ownRecord n e m).Fit := by
  obtain ⟨hp, hu, -⟩ : s.station.phase = .active ∧ (s.condition n).grade ≠ .unav ∧ (s.planOf n).defined = true := by
    simpa [State.ownCandidate] using h
  obtain ⟨hd, hr, hl⟩ := formGrade_ne_unav (hg n ▸ hu)
  exact ⟨⟨hp, hr, hd, hl⟩, fun _ _ => ⟨hu, hr⟩⟩

theorem queueOwnClaim_agrees {n : Service} {s : State} (hg : s.GradesAgree) (h : s.EntryAgrees n)
    (hc : s.ownCandidate n = true) (hs : (s.entry n).state ≠ .held) (e : Epoch) (m : ClaimMode) :
    (queueOwnClaim n e m s).EntryAgrees n := by
  obtain ⟨hm, hf⟩ := hg.candidate hc
  exact request_agrees (fun _ h => h.addClaim n e)
    (putEntry_agrees (.claiming (h.owner_ne hs) hm rfl rfl rfl (hf e m) (.inl ⟨rfl, rfl⟩)))

theorem removeWtr_agrees {n : Service} {s : State} (h : s.EntryAgrees n) : (removeWtr n s).EntryAgrees n :=
  putEntry_agrees (h.of_fields rfl rfl rfl)

theorem evaluate_agrees {n : Service} {s : State} (hg : s.GradesAgree) (h : s.EntryAgrees n) :
    (evaluate n s).EntryAgrees n := by
  have hev := evaluate_evaluation n s
  generalize evaluate n s = t at hev
  cases hev with
  | same => exact h
  | removed => exact removeWtr_agrees h
  | started => exact putEntry_agrees (h.of_fields rfl rfl rfl)
  | claimed e m hc hs hr => exact queueOwnClaim_agrees hg h hc hs e m

/-! ## The claim exchange -/

theorem dropRecord_agrees {n : Service} {s : State} (ho : (s.entry n).owner ≠ some s.station.ownId) :
    (dropRecord n s).EntryAgrees n := changeEntry_agrees (settled_agrees ho)

theorem failOwnClaim_agrees {n : Service} {s : State} (ho : (s.entry n).owner ≠ some s.station.ownId) (r : ClaimRecord)
    (c : FailCause) (p : Option StationId) : (failOwnClaim n r c p s).EntryAgrees n :=
  changeEntry_agrees ((settled_agrees (s := post ..) ho).of_fields rfl rfl rfl)

theorem acceptOwnClaim_agrees {n : Service} {s : State} (hg : s.GradesAgree) (hm : s.MayHold n) (r : ClaimRecord) :
    (acceptOwnClaim n r s).EntryAgrees n := by
  simp only [acceptOwnClaim]
  refine evaluate_agrees ?_ ?_
  · exact (((putEntry_step ..).trans (requestStatus_step _)).trans (post_step ..)).gradesAgree hg
  · exact post_agrees _ _ _ _ _ (request_agrees (fun _ h => h.addStatus) (putEntry_agrees (.held rfl rfl rfl hm)))

theorem acceptWatchedClaim_agrees {n : Service} {s : State} (hg : s.GradesAgree) {r : ClaimRecord}
    (hr : r.claimant ≠ s.station.ownId) : (acceptWatchedClaim n r s).EntryAgrees n :=
  evaluate_agrees ((changeEntry_step ..).gradesAgree hg)
    (changeEntry_agrees (settled_agrees fun h => hr (Option.some.inj h)))

theorem endWindow_agrees {n : Service} {s : State} {r : ClaimRecord} (hg : s.GradesAgree) (h : s.EntryAgrees n)
    (hr : (s.entry n).record = some r) : (endWindow n r s).EntryAgrees n := by
  obtain ⟨ho, -, hcase⟩ := h.of_record hr
  unfold endWindow
  split
  · next hown =>
    have hm : s.MayHold n := by
      rcases hcase with ⟨-, -, hm, -⟩ | ⟨-, hne, -⟩
      · exact hm
      · exact absurd hown hne
    split
    · exact evaluate_agrees ((failOwnClaim_step ..).gradesAgree hg) (failOwnClaim_agrees ho ..)
    · exact acceptOwnClaim_agrees hg hm r
  · next hown =>
    split
    · exact evaluate_agrees ((dropRecord_step ..).gradesAgree hg) (dropRecord_agrees ho)
    · exact acceptWatchedClaim_agrees hg hown

/-- A record whose own claim has been sent CLEAN (R21). -/
theorem claimSentClean_agrees {n : Service} {s : State} (hg : s.GradesAgree) (h : s.EntryAgrees n) (e : Epoch) :
    (claimSentClean n e s).EntryAgrees n := by
  simp only [claimSentClean]
  split
  · next r hr =>
    obtain ⟨hrec, hst, hown, -⟩ := ownClaimAt_some hr
    obtain ⟨ho, hf, -⟩ := h.of_record hrec
    have hput : ∀ x : ClaimRecord, x.claimant = s.station.ownId → x.Fit → x.OwnTimes →
        (putEntry n { s.entry n with record := some x } s).EntryAgrees n := fun x hc hfit ht =>
      putEntry_agrees (.claiming ho (h.may_of_claiming hst) hst rfl hc hfit ht)
    have hsent := hput { r with sent := some .sent, window := some Config.claimWindow } hown hf
      (.inr ⟨rfl, by simp⟩)
    split
    · refine endWindow_agrees ((putEntry_step ..).gradesAgree hg) hsent ?_
      rw [putEntry_entry_same, stamp_record]
    · exact hsent
  · split
    · exact request_agrees (fun _ h => h.addRelease _) h
    · exact h

theorem claimGivenUp_agrees {n : Service} {s : State} (hg : s.GradesAgree) (h : s.EntryAgrees n) (e : Epoch) :
    (claimGivenUp n e s).EntryAgrees n := by
  unfold claimGivenUp
  split
  · next r hr =>
    have ho := (h.of_record (ownClaimAt_some hr).1).1
    exact evaluate_agrees ((failOwnClaim_step ..).gradesAgree hg) (failOwnClaim_agrees ho ..)
  · exact h

/-- A withdrawn or abandoned claim leaves its entry settled, whatever stood against it (R35, R36). -/
theorem withdrawOwn_agrees {n : Service} {s : State} (hg : s.GradesAgree)
    (ho : (s.entry n).state = .claiming → (s.entry n).owner ≠ some s.station.ownId)
    (h : ¬((s.entry n).state = .claiming ∧ (s.entry n).record ≠ none) → s.EntryAgrees n) :
    (withdrawOwn n s).EntryAgrees n := by
  unfold withdrawOwn
  split
  · next r hs _ =>
    have hfail : (withdrawClaim n r s).1.EntryAgrees n := failOwnClaim_agrees (ho hs) ..
    have hgrade := (withdrawClaim_step n r s).gradesAgree hg
    refine evaluate_agrees ?_ ?_
    · split
      · exact (request_step (fun _ h => h.addRelease _) _).gradesAgree hgrade
      · exact hgrade
    · split
      · exact request_agrees (fun _ h => h.addRelease _) hfail
      · exact hfail
  · next hn =>
    refine h fun hc => ?_
    obtain ⟨r, hr⟩ := Option.ne_none_iff_exists'.1 hc.2
    exact hn r hc.1 hr

/-! ## Leaving HELD -/

theorem leaveHeld_agrees {n : Service} {s : State} {o : Option StationId} {st : EntryState}
    (ho : o ≠ some s.station.ownId) (hs : st = s.settledState o) (hr : (s.entry n).record = none) (e : Option Epoch)
    (k : Option Nat) (r : DropReason) : (leaveHeld n o e st k r s).EntryAgrees n :=
  post_agrees _ _ _ _ _ (putEntry_agrees (.settled ho hs hr))

theorem releaseOnLockout_agrees {n : Service} {s : State} (hg : s.GradesAgree) (hr : (s.entry n).record = none) :
    (releaseOnLockout n s).EntryAgrees n := by
  refine evaluate_agrees (((leaveHeld_step ..).trans (requestRelease_step ..)).gradesAgree hg) ?_
  exact request_agrees (fun _ h => h.addRelease _) (leaveHeld_agrees (by simp) rfl hr ..)

theorem handOver_agrees {p : StationId} {c : ClaimBody} {s : State} (hg : s.GradesAgree) (hp : p ≠ s.station.ownId)
    (hr : (s.entry c.service).record = none) : (handOver p c s).EntryAgrees c.service := by
  refine evaluate_agrees (((leaveHeld_step ..).trans (requestRelease_step ..)).gradesAgree hg) ?_
  exact request_agrees (fun _ h => h.addRelease _)
    (leaveHeld_agrees (fun h => hp (Option.some.inj h)) rfl hr ..)

theorem judgeTakeover_agrees {p : StationId} {c : ClaimBody} {s : State} (hg : s.GradesAgree)
    (h : s.EntryAgrees c.service) (hp : p ≠ s.station.ownId) (hs : (s.entry c.service).state = .held) :
    (judgeTakeover p c s).EntryAgrees c.service := by
  unfold judgeTakeover
  split
  · exact request_agrees (fun _ h => h.addObject _) h
  · split
    · exact request_agrees (fun _ h => h.addObject _) h
    · exact handOver_agrees hg hp (h.record_of_held hs)

/-! ## Claims heard from peers -/

/-- The record of a peer's claim stands in a WATCHING entry while that peer is LIVE (R24, R27). -/
theorem watching_agrees {p : StationId} {c : ClaimBody} {s : State} {e : ServiceEntry} {may : Prop}
    (ho : e.owner ≠ some s.station.ownId) (hs : e.state = .watching) (hr : e.record = some (watchedRecord p c))
    (hp : p ≠ s.station.ownId) (hl : s.isLive p = true) (hf : c.claimed.grade ≠ .unav ∧ c.claimed.rank ≠ 0) :
    e.Agrees s.station.ownId s.isLive may :=
  .watching ho hs hr hp hl hf ⟨rfl, by simp [watchedRecord]⟩

theorem receiveClaim_agrees {p : StationId} {s : State} (hg : s.GradesAgree) (hp : p ≠ s.station.ownId) (c : ClaimBody)
    (h : s.EntryAgrees c.service) : (receiveClaim p c s).EntryAgrees c.service := by
  simp only [receiveClaim]
  split
  · exact h
  · split
    · exact h
    · next hfit =>
      have hf : c.claimed.grade ≠ .unav ∧ c.claimed.rank ≠ 0 := not_or.1 hfit
      split
      · next hs =>
        split
        · exact judgeTakeover_agrees hg h hp hs
        · exact request_agrees (fun _ h => h.addObject _) h
      · next hs =>
        have ho := h.owner_ne hs
        split
        · exact h
        · next hlive =>
          have hl : s.isLive p = true := by simpa using hlive
          split
          · exact h
          · split
            · exact evaluate_agrees ((putEntry_step ..).gradesAgree hg)
                (putEntry_agrees (watching_agrees ho rfl rfl hp hl hf))
            · next r hr =>
              obtain ⟨-, -, hcase⟩ := h.of_record hr
              simp only [compareClaim]
              split
              · exact h
              · split
                · exact evaluate_agrees (((putEntry_step ..).trans (post_step ..)).gradesAgree hg)
                    (post_agrees _ _ _ _ _ (putEntry_agrees (watching_agrees ho rfl rfl hp hl hf)))
                · next hne =>
                  have hw : (s.entry c.service).state = .watching := by
                    rcases hcase with ⟨-, hown, -⟩ | ⟨hw, -⟩
                    · exact absurd hown hne
                    · exact hw
                  exact putEntry_agrees (watching_agrees ho hw rfl hp hl hf)

/-! ## RELEASE and OBJECT -/

theorem receiveWithdraw_agrees {s : State} (hg : s.GradesAgree) (p : StationId) (x : ReleaseEntry)
    (h : s.EntryAgrees x.service) : (receiveWithdraw p x s).EntryAgrees x.service := by
  unfold receiveWithdraw
  split
  · next r hr =>
    split
    · exact evaluate_agrees ((dropRecord_step ..).gradesAgree hg) (dropRecord_agrees (h.of_record hr).1)
    · exact h
  · exact h

/-- A record may be changed in what agreement does not read. -/
theorem putRecord_agrees {n : Service} {s : State} {r x : ClaimRecord} (h : s.EntryAgrees n)
    (hr : (s.entry n).record = some r) (hc : x.claimant = r.claimant) (hb : x.claimed = r.claimed)
    (hs : x.sent = r.sent) (hw : x.window = r.window) :
    (putEntry n { s.entry n with record := some x } s).EntryAgrees n := by
  obtain ⟨ho, hf, hcase⟩ := h.of_record hr
  have hfit : x.Fit := by unfold ClaimRecord.Fit; rw [hb]; exact hf
  rcases hcase with ⟨hst, hown, hm, ht⟩ | ⟨hst, hown, hl, ht⟩
  · refine putEntry_agrees (.claiming ho hm hst rfl (hc.trans hown) hfit ?_)
    unfold ClaimRecord.OwnTimes; rw [hs, hw]; exact ht
  · refine putEntry_agrees (.watching ho hst rfl (hc ▸ hown) (hc ▸ hl) hfit ?_)
    unfold ClaimRecord.WatchedTimes; rw [hs, hw]; exact ht

theorem answerRecord_agrees {n : Service} {s : State} {r : ClaimRecord} (hg : s.GradesAgree) (h : s.EntryAgrees n)
    (hr : (s.entry n).record = some r) : (answerRecord n r s).EntryAgrees n := by
  have hput := putRecord_agrees (x := { r with releaseHeard := true }) h hr rfl rfl rfl rfl
  simp only [answerRecord]
  split
  · refine endWindow_agrees ((putEntry_step ..).gradesAgree hg) hput ?_
    rw [putEntry_entry_same, stamp_record]
  · exact hput

theorem releaseByOwner_agrees {s : State} (hg : s.GradesAgree) (p : StationId) (x : ReleaseEntry)
    (h : s.EntryAgrees x.service) : (releaseByOwner p x s).EntryAgrees x.service := by
  simp only [releaseByOwner]
  split
  · split
    · next hr =>
      exact evaluate_agrees ((changeEntry_step ..).gradesAgree hg) (changeEntry_agrees (.vacant rfl rfl hr))
    · next r hr =>
      obtain ⟨-, hf, ⟨hst, hown, hm, ht⟩ | ⟨hst, hown, hl, ht⟩⟩ := h.of_record hr
      · exact changeEntry_agrees (.claiming (by simp) hm hst hr hown hf ht)
      · exact changeEntry_agrees (.watching (by simp) hst hr hown hl hf ht)
  · exact h

theorem receiveRelease_agrees {s : State} (hg : s.GradesAgree) (p : StationId) (x : ReleaseEntry)
    (h : s.EntryAgrees x.service) : (receiveRelease p x s).EntryAgrees x.service := by
  unfold receiveRelease
  split
  · exact h
  · split
    · exact receiveWithdraw_agrees hg p x h
    · split
      · next r hr =>
        split
        · exact answerRecord_agrees hg h hr
        · exact releaseByOwner_agrees hg p x h
      · exact releaseByOwner_agrees hg p x h

theorem objectedEntry_owner_ne {p own : StationId} {e : ServiceEntry} (hp : p ≠ own) (ho : e.owner ≠ some own)
    (x : ObjectEntry) : (objectedEntry p x e).owner ≠ some own := by
  rcases objectedEntry_cases p x e with he | he <;> rw [he]
  · exact ho
  · exact fun h => hp (Option.some.inj h)

theorem receiveObject_agrees {p : StationId} {s : State} (hg : s.GradesAgree) (hp : p ≠ s.station.ownId)
    (x : ObjectEntry) (h : s.EntryAgrees x.service) : (receiveObject p x s).EntryAgrees x.service := by
  simp only [receiveObject]
  split
  · exact h
  · split
    · next r hr =>
      have ho := objectedEntry_owner_ne hp (h.of_record hr).1 x
      split
      · split
        · exact evaluate_agrees (((post_step ..).trans (changeEntry_step ..)).gradesAgree hg)
            (changeEntry_agrees ((settled_agrees (s := post ..) ho).of_fields rfl rfl rfl))
        · exact evaluate_agrees ((changeEntry_step ..).gradesAgree hg) (changeEntry_agrees (settled_agrees ho))
      · exact h
    · exact h

end Sys2Proof.Machine

/-! How the operations on all sixteen services keep the Service Table in agreement: reconciliation, the reports of the
Peer Monitor and of the Condition Monitor, and the phase changes. -/

namespace Sys2Proof.Machine

/-! ## An operation on each service -/

/-- An operation on each service brings entry `n` from `pre` to `post`, where its own part does and the other parts,
each on its own entry, keep both. -/
theorem foldl_entries {f : Service → State → State} {pre post : State → Service → Prop}
    (hstep : ∀ n s, EntryStep n s (f n s))
    (hpre : ∀ n m s t, EntryStep n s t → m ≠ n → pre s m → pre t m)
    (hpost : ∀ n m s t, EntryStep n s t → m ≠ n → post s m → post t m)
    (hf : ∀ n s, pre s n → post (f n s) n) :
    ∀ (ns : List Service) (s : State), ns.Nodup → (∀ n ∈ ns, pre s n) →
      ∀ n, n ∈ ns ∨ post s n → post (ns.foldl (fun s n => f n s) s) n
  | [], _, _, _, n, h => h.resolve_left (by simp)
  | k :: ns, s, hnd, h, n, hn => by
    obtain ⟨hk, hnd⟩ := List.nodup_cons.1 hnd
    obtain ⟨h1, h2⟩ := List.forall_mem_cons.1 h
    refine foldl_entries hstep hpre hpost hf ns (f k s) hnd
      (fun m hm => hpre k m _ _ (hstep k s) (fun hmk => hk (hmk ▸ hm)) (h2 m hm)) n ?_
    by_cases hnk : n = k
    · exact .inr (hnk ▸ hf k s h1)
    · exact hn.imp (fun hm => (List.mem_cons.1 hm).resolve_left hnk) (hpost k n _ _ (hstep k s) hnk)

theorem allSixteen_nodup : allSixteen.Nodup := List.nodup_finRange 16

theorem forEach_entries {f : Service → State → State} {pre post : State → Service → Prop}
    (hstep : ∀ n s, EntryStep n s (f n s))
    (hpre : ∀ n m s t, EntryStep n s t → m ≠ n → pre s m → pre t m)
    (hpost : ∀ n m s t, EntryStep n s t → m ≠ n → post s m → post t m)
    (hf : ∀ n s, pre s n → post (f n s) n) {s : State} (h : ∀ n, pre s n) (n : Service) : post (forEach f s) n :=
  foldl_entries hstep hpre hpost hf allSixteen s allSixteen_nodup (fun n _ => h n) n (.inl (mem_allSixteen n))

/-- Every entry of the Service Table agrees with the station, its peers and its plan. -/
structure State.TableAgrees (s : State) : Prop where
  entry : ∀ n, s.EntryAgrees n

/-- The agreement of another entry stands. -/
theorem EntryStep.agrees_other {n m : Service} {s t : State} (h : EntryStep n s t) (hm : m ≠ n)
    (ha : s.EntryAgrees m) : t.EntryAgrees m := h.owner.agrees (h.others m hm).1 ha

theorem EntryStep.tableAgrees {n : Service} {s t : State} (h : EntryStep n s t) (hn : t.EntryAgrees n)
    (ha : s.TableAgrees) : t.TableAgrees := ⟨h.agrees hn ha.entry⟩

/-- An operation on each service brings the table into agreement where its part on entry `n` does so for entry `n`. -/
theorem forEach_agrees {f : Service → State → State} {pre : State → Service → Prop}
    (hstep : ∀ n s, EntryStep n s (f n s))
    (hpre : ∀ n m s t, EntryStep n s t → m ≠ n → pre s m → pre t m)
    (hf : ∀ n s, pre s n → (f n s).EntryAgrees n) {s : State} (h : ∀ n, pre s n) : (forEach f s).TableAgrees :=
  ⟨fun n => forEach_entries (post := State.EntryAgrees) hstep hpre (fun _ _ _ _ k hm h => k.agrees_other hm h) hf h n⟩

theorem evaluateAll_agrees {s : State} (hg : s.GradesAgree) (h : s.TableAgrees) : (evaluateAll s).TableAgrees :=
  forEach_agrees (pre := fun s n => s.GradesAgree ∧ s.EntryAgrees n) evaluate_entryStep
    (fun _ _ _ _ k hm h => ⟨k.owner.gradesAgree h.1, k.agrees_other hm h.2⟩)
    (fun _ _ h => evaluate_agrees h.1 h.2) fun n => ⟨hg, h.entry n⟩

/-! ## Reconciliation -/

theorem adopt_agrees {p : StationId} {s : State} (hp : p ≠ s.station.ownId) (n : Service) (f : Epoch) :
    (adopt n p f s).EntryAgrees n :=
  changeEntry_agrees (settled_agrees fun h => hp (Option.some.inj h))

theorem settleDualHold_agrees {n : Service} {p : StationId} {s : State} (hp : p ≠ s.station.ownId)
    (h : s.EntryAgrees n) (hr : (s.entry n).record = none) (hl : s.isLive p = true) (f : Epoch) (t : ClaimTuple) :
    (settleDualHold n p f t s).EntryAgrees n := by
  have hlost : (supersede n p f s).EntryAgrees n :=
    leaveHeld_agrees (fun h => hp (Option.some.inj h)) (by simp [State.settledState, hl]) hr ..
  have hwon : ∀ g, (winDualHold n p g s).EntryAgrees n := fun g =>
    post_agrees _ _ _ _ _ (request_agrees (fun _ h => h.addStatus) h)
  unfold settleDualHold
  split
  · exact hlost
  · exact hwon _
  · split
    · exact hlost
    · exact hwon _

theorem reconcile_agrees {n : Service} {p : StationId} {s : State} (hp : p ≠ s.station.ownId) (h : s.EntryAgrees n)
    (b : StatusBody) : (reconcile n p b s).EntryAgrees n := by
  simp only [reconcile]
  split
  · next r hr =>
    rw [ClaimRecord.hear_eq]
    exact putRecord_agrees h hr rfl rfl rfl rfl
  · next hr =>
    split
    · split
      · split
        · exact h
        · exact changeEntry_agrees (h.of_fields rfl rfl rfl)
      · exact changeEntry_agrees (.vacant rfl rfl hr)
    · split
      · exact h
      · split
        · split
          · next hl => exact settleDualHold_agrees hp h hr hl ..
          · exact h
        · exact adopt_agrees hp ..
        · exact adopt_agrees hp ..
        · split
          · unfold reconcileRemote
            split
            · exact adopt_agrees hp ..
            · exact h
            · split
              · split
                · exact adopt_agrees hp ..
                · exact h
              · exact h
          · exact h
        · exact h
        · exact h

theorem statusService_agrees {n : Service} {p : StationId} {s : State} (hg : s.GradesAgree)
    (hp : p ≠ s.station.ownId) (h : s.EntryAgrees n) (b : StatusBody) (marks : Table Bool) :
    (statusService p b marks n s).EntryAgrees n := by
  have hrec : (reconcileDefined n p b s).EntryAgrees n := by
    unfold reconcileDefined
    split
    · exact reconcile_agrees hp h b
    · exact h
  simp only [statusService]
  split
  · exact evaluate_agrees ((reconcileDefined_step ..).gradesAgree hg) hrec
  · exact hrec

/-! ## What a delivered frame does -/

theorem receiveStatus_agrees {p : StationId} {s : State} (hg : s.GradesAgree) (hp : p ≠ s.station.ownId)
    (h : s.TableAgrees) (b : StatusBody) (marks : Table Bool) : (receiveStatus p b marks s).TableAgrees :=
  forEach_agrees (pre := fun s n => (s.GradesAgree ∧ p ≠ s.station.ownId) ∧ s.EntryAgrees n)
    (statusService_entryStep p b marks)
    (fun _ _ _ _ k hm h =>
      ⟨⟨k.owner.gradesAgree h.1.1, by rw [k.owner.station]; exact h.1.2⟩, k.agrees_other hm h.2⟩)
    (fun _ _ h => statusService_agrees h.1.1 h.1.2 h.2 b marks) fun n => ⟨⟨hg, hp⟩, h.entry n⟩

/-- A list of entries of one frame, each acting on its own service, keeps the agreement. -/
theorem foldl_agrees {α : Type} {f : State → α → State} {service : α → Service} {own : StationId}
    (hstep : ∀ s x, EntryStep (service x) s (f s x))
    (hf : ∀ s x, s.GradesAgree → s.station.ownId = own → s.EntryAgrees (service x) → (f s x).EntryAgrees (service x))
    (xs : List α) {s : State} (hg : s.GradesAgree) (ho : s.station.ownId = own) (h : s.TableAgrees) :
    (xs.foldl f s).TableAgrees := by
  induction xs generalizing s with
  | nil => exact h
  | cons x rest ih =>
    have k := hstep s x
    exact ih (k.owner.gradesAgree hg) (by rw [k.owner.station, ho]) (k.tableAgrees (hf s x hg ho (h.entry _)) h)

theorem deliver_agrees {p : StationId} {s : State} (hg : s.GradesAgree) (hp : p ≠ s.station.ownId)
    (h : s.TableAgrees) (body : FrameBody) (marks : Table Bool) : (deliver p body marks s).TableAgrees := by
  unfold deliver
  split
  · exact receiveStatus_agrees hg hp h ..
  · next c => exact (receiveClaim_entryStep p c s).tableAgrees (receiveClaim_agrees hg hp c (h.entry _)) h
  · exact foldl_agrees (service := ReleaseEntry.service) (fun s x => receiveRelease_entryStep p x s)
      (fun _ x hg _ ha => receiveRelease_agrees hg p x ha) _ hg rfl h
  · exact foldl_agrees (service := ObjectEntry.service) (fun s x => receiveObject_entryStep p x s)
      (fun _ x hg ho ha => receiveObject_agrees hg (ho ▸ hp) x ha) _ hg rfl h

/-! ## A report of a peer's state (R7, R27, R69, R70) -/

/-- Entry `n` agrees with what was LIVE before peer `p`, another station, changed. -/
structure State.AgreedBefore (s : State) (p : StationId) (live : StationId → Bool) (n : Service) : Prop where
  peer : p ≠ s.station.ownId
  others : ∀ q, q ≠ p → live q = s.isLive q
  entry : (s.entry n).Agrees s.station.ownId live (s.MayHold n)

theorem EntryStep.agreedBefore {n m : Service} {s t : State} {p : StationId} {live : StationId → Bool}
    (h : EntryStep n s t) (hm : m ≠ n) (ha : s.AgreedBefore p live m) : t.AgreedBefore p live m where
  peer := by rw [h.owner.station]; exact ha.peer
  others := fun q hq => by rw [h.owner.isLive]; exact ha.others q hq
  entry := by
    have he := ha.entry
    rw [← (h.others m hm).1, ← h.owner.station, ← propext (h.owner.mayHold m)] at he
    exact he

theorem settleForPeer_agrees {p : StationId} {live : StationId → Bool} {n : Service} {s : State}
    (h : s.AgreedBefore p live n) : (settleForPeer p n s).EntryAgrees n := by
  obtain ⟨hp, hl, ha⟩ := h
  simp only [settleForPeer]
  split
  · next r hr =>
    obtain ⟨ho, hf, hcase⟩ := ha.of_record hr
    split
    · exact dropRecord_agrees ho
    · next hn =>
      rcases hcase with ⟨hs, hown, hm, ht⟩ | ⟨hs, hne, hlive, ht⟩
      · exact .claiming ho hm hs hr hown hf ht
      · refine .watching ho hs hr hne ?_ hf ht
        by_cases hc : r.claimant = p
        · rw [hc]
          simpa [hc] using hn
        · rw [← hl _ hc]
          exact hlive
  · next hr =>
    split
    · next hown =>
      exact changeEntry_agrees (.settled (fun h => hown.2 (ha.held_iff.2 h)) rfl hr)
    · next hn =>
      unfold State.EntryAgrees
      unfold ServiceEntry.Agrees at ha ⊢
      cases hs : (s.entry n).state <;> simp only [hs] at ha ⊢
      case vacant => exact ha
      case held => exact ha
      case claiming =>
        obtain ⟨-, -, x, hx, -⟩ := ha
        rw [hr] at hx; cases hx
      case watching =>
        obtain ⟨-, x, hx, -⟩ := ha
        rw [hr] at hx; cases hx
      case remote =>
        obtain ⟨hrec, q, hq, hne, hlive⟩ := ha
        refine ⟨hrec, q, hq, hne, ?_⟩
        rw [← hl q fun hqp => hn ⟨by rw [hq, hqp], by simp [hs]⟩]
        exact hlive
      case orphaned =>
        obtain ⟨hrec, q, hq, hne, hlive⟩ := ha
        refine ⟨hrec, q, hq, hne, ?_⟩
        rw [← hl q fun hqp => hn ⟨by rw [hq, hqp], by simp [hs]⟩]
        exact hlive

theorem departEntry_agrees {p : StationId} {live : StationId → Bool} {n : Service} {s : State}
    (h : s.AgreedBefore p live n) : (departEntry p n s).EntryAgrees n := by
  simp only [departEntry]
  split
  · next hown =>
    obtain ⟨r, hr⟩ := Option.ne_none_iff_exists'.1 hown.2
    obtain ⟨-, hf, hcase⟩ := h.entry.of_record hr
    have k := changeEntry_step n { s.entry n with owner := none } s
    refine settleForPeer_agrees (live := live) ⟨by rw [k.station]; exact h.peer,
      fun q hq => by rw [k.isLive]; exact h.others q hq, ?_⟩
    rw [changeEntry_entry_same, k.station, propext (k.mayHold n)]
    refine ServiceEntry.Agrees.of_fields (stamp_state ..) (stamp_owner ..) (stamp_record ..) ?_
    rcases hcase with ⟨hs, hown, hm, ht⟩ | ⟨hs, hne, hlive, ht⟩
    · exact .claiming (by simp) hm hs hr hown hf ht
    · exact .watching (by simp) hs hr hne hlive hf ht
  · exact settleForPeer_agrees h

theorem reportPeerState_agrees {p : StationId} {live : StationId → Bool} {s : State} (hg : s.GradesAgree)
    (h : ∀ n, s.AgreedBefore p live n) : (reportPeerState p s).TableAgrees :=
  evaluateAll_agrees ((forEach_step (settleForPeer_step p) s).gradesAgree hg)
    (forEach_agrees (pre := fun s n => s.AgreedBefore p live n) (settleForPeer_entryStep p)
      (fun _ _ _ _ k hm h => k.agreedBefore hm h) (fun _ _ h => settleForPeer_agrees h) h)

theorem reportDeparture_agrees {p : StationId} {live : StationId → Bool} {s : State} (hg : s.GradesAgree)
    (h : ∀ n, s.AgreedBefore p live n) : (reportDeparture p s).TableAgrees :=
  evaluateAll_agrees ((forEach_step (departEntry_step p) s).gradesAgree hg)
    (forEach_agrees (pre := fun s n => s.AgreedBefore p live n) (departEntry_entryStep p)
      (fun _ _ _ _ k hm h => k.agreedBefore hm h) (fun _ _ h => departEntry_agrees h) h)

/-! ## Where an entry may no longer be held -/

/-- Entry `n` agrees but for whether it may be held: a phase change or a LOCKOUT has just taken that away (R6). -/
def State.AgreesBarHold (s : State) (n : Service) : Prop :=
  (s.entry n).Agrees s.station.ownId s.isLive True

/-- A weaker condition for holding. -/
theorem ServiceEntry.Agrees.imp {own : StationId} {live : StationId → Bool} {may may' : Prop} {e : ServiceEntry}
    (hm : e.state = .held ∨ e.state = .claiming → may → may') (h : e.Agrees own live may) : e.Agrees own live may' := by
  unfold ServiceEntry.Agrees at h ⊢
  cases hs : e.state <;> simp only [hs] at h ⊢
  case vacant => exact h
  case held => exact ⟨h.1, h.2.1, hm (.inl hs) h.2.2⟩
  case remote => exact h
  case orphaned => exact h
  case claiming => exact ⟨h.1, hm (.inr hs) h.2.1, h.2.2⟩
  case watching => exact h

theorem State.EntryAgrees.barHold {s : State} {n : Service} (h : s.EntryAgrees n) : s.AgreesBarHold n :=
  ServiceEntry.Agrees.imp (fun _ _ => trivial) h

theorem State.AgreesBarHold.agrees {s : State} {n : Service} (h : s.AgreesBarHold n)
    (hm : (s.entry n).state = .held ∨ (s.entry n).state = .claiming → s.MayHold n) : s.EntryAgrees n :=
  ServiceEntry.Agrees.imp (fun hs _ => hm hs) h

theorem EntryStep.barHold_other {n m : Service} {s t : State} (h : EntryStep n s t) (hm : m ≠ n)
    (ha : s.AgreesBarHold m) : t.AgreesBarHold m := by
  unfold State.AgreesBarHold
  rw [(h.others m hm).1, h.owner.station, funext h.owner.isLive]
  exact ha

/-- LEAVE and MUTED let go of an entry that is HELD or CLAIMING (R111, R114). -/
theorem leaveEntry_agrees {n : Service} {s : State} (h : s.AgreesBarHold n) : (leaveEntry n s).1.EntryAgrees n := by
  unfold leaveEntry
  dsimp only
  split
  · next hs => exact removeWtr_agrees (leaveHeld_agrees (by simp) rfl (h.record_of_held hs) ..)
  · next r hs _ => exact removeWtr_agrees (failOwnClaim_agrees (h.owner_ne (by simp [hs])) ..)
  · next hheld hclaim =>
    refine removeWtr_agrees (h.agrees ?_)
    rintro (hs | hs)
    · exact absurd hs hheld
    · obtain ⟨r, hr⟩ := Option.ne_none_iff_exists'.1 (h.record_ne_none (.inl hs))
      exact absurd hr (hclaim r hs)

theorem muteEntry_agrees {n : Service} {s : State} (h : s.AgreesBarHold n) : (muteEntry n s).EntryAgrees n := by
  simp only [muteEntry]
  split
  · next hs => exact removeWtr_agrees (leaveHeld_agrees (by simp) rfl (h.record_of_held hs) ..)
  · next r hs _ => exact removeWtr_agrees (dropRecord_agrees (h.owner_ne (by simp [hs])))
  · next hheld hclaim =>
    refine removeWtr_agrees (h.agrees ?_)
    rintro (hs | hs)
    · exact absurd hs hheld
    · obtain ⟨r, hr⟩ := Option.ne_none_iff_exists'.1 (h.record_ne_none (.inl hs))
      exact absurd hr (hclaim r hs)

theorem leaveEntries_fst (ns : List Service) (s : State) :
    (leaveEntries ns s).1 = ns.foldl (fun s n => (leaveEntry n s).1) s := by
  induction ns generalizing s with
  | nil => rfl
  | cons n rest ih => exact ih _

theorem leaveEntries_agrees {s : State} (h : ∀ n, s.AgreesBarHold n) : (leaveEntries allSixteen s).1.TableAgrees := by
  rw [leaveEntries_fst]
  exact forEach_agrees (f := fun n s => (leaveEntry n s).1) (pre := State.AgreesBarHold) leaveEntry_entryStep
    (fun _ _ _ _ k hm h => k.barHold_other hm h) (fun _ _ h => leaveEntry_agrees h) h

theorem muteEntries_agrees {s : State} (h : ∀ n, s.AgreesBarHold n) : (forEach muteEntry s).TableAgrees :=
  forEach_agrees (pre := State.AgreesBarHold) muteEntry_entryStep (fun _ _ _ _ k hm h => k.barHold_other hm h)
    (fun _ _ h => muteEntry_agrees h) h

/-! ## A report of the Condition Monitor (R80) -/

/-- An evaluation under LOCKOUT, when this station is no candidate, touches the WTR timer alone. -/
theorem evaluate_barHold {n : Service} {s : State} (h : s.AgreesBarHold n) (hc : s.ownCandidate n = false) :
    (evaluate n s).AgreesBarHold n := by
  have hev := evaluate_evaluation n s
  have hstep := evaluate_step n s
  unfold State.AgreesBarHold
  rw [hstep.station, funext hstep.isLive]
  generalize evaluate n s = t at hev
  cases hev with
  | same => exact h
  | removed => rw [removeWtr_entry]; exact h.of_fields rfl rfl rfl
  | started => rw [startWtr_entry]; exact h.of_fields rfl rfl rfl
  | claimed e m hcand => rw [hc] at hcand; cases hcand

/-- A LOCKOUT that has just been accepted withdraws an own claim, so that at most a HELD entry is left to release. -/
theorem withdrawIfDue_locked {n : Service} {s : State} {old : ServiceCondition} (hg : s.GradesAgree)
    (h : s.AgreesBarHold n) (hr : (s.condition n).request = .lockout) (ho : old.request ≠ .lockout) :
    (withdrawIfDue n old s).EntryAgrees n ∨
      (withdrawIfDue n old s = s ∧ (s.entry n).state = .held ∧ (s.entry n).record = none) := by
  unfold withdrawIfDue
  by_cases hheld : (s.entry n).state = .held
  · have hnone := h.record_of_held hheld
    have hdue : s.withdrawalDue n old = false := by simp [State.withdrawalDue, hnone]
    exact .inr ⟨by simp [hdue], hheld, hnone⟩
  · left
    have hmay : ¬((s.entry n).state = .claiming ∧ (s.entry n).record ≠ none) → s.EntryAgrees n := by
      intro hn
      refine h.agrees ?_
      rintro (hs | hs)
      · exact absurd hs hheld
      · exact absurd ⟨hs, h.record_ne_none (.inl hs)⟩ hn
    split
    · exact withdrawOwn_agrees hg (fun _ => h.owner_ne hheld) hmay
    · next hdue =>
      refine hmay fun hn => hdue ?_
      obtain ⟨r, hrec⟩ := Option.ne_none_iff_exists'.1 hn.2
      simp [State.withdrawalDue, hrec, hr, ho]

theorem releaseIfLocked_agrees {n : Service} {s : State} (hg : s.GradesAgree)
    (h : s.EntryAgrees n ∨ ((s.condition n).request = .lockout ∧ (s.entry n).state = .held ∧
      (s.entry n).record = none)) : (releaseIfLocked n s).EntryAgrees n := by
  unfold releaseIfLocked
  rcases h with h | ⟨hr, hs, hn⟩
  · split
    · next hl => exact releaseOnLockout_agrees hg (h.record_of_held hl.2)
    · exact h
  · rw [if_pos ⟨hr, hs⟩]
    exact releaseOnLockout_agrees hg hn

/-- A report keeps the entry in agreement, and brings it there when a LOCKOUT has just been accepted (R53, R80, R83). -/
theorem report_agrees {n : Service} {s : State} {old : ServiceCondition} (hg : s.GradesAgree)
    (h : s.EntryAgrees n ∨
      (s.AgreesBarHold n ∧ (s.condition n).request = .lockout ∧ old.request ≠ .lockout)) :
    (releaseIfLocked n (withdrawIfDue n old (evaluate n s))).EntryAgrees n := by
  have h1 := evaluate_step n s
  have h2 := withdrawIfDue_step n old (evaluate n s)
  have hg1 := h1.gradesAgree hg
  refine releaseIfLocked_agrees (h2.gradesAgree hg1) ?_
  rcases h with h | ⟨hb, hr, ho⟩
  · left
    have he := evaluate_agrees hg h
    unfold withdrawIfDue
    split
    · exact withdrawOwn_agrees hg1 (fun hs => he.owner_ne (by simp [hs])) fun _ => he
    · exact he
  · have hu : (s.condition n).grade = .unav := by rw [hg n, hr]; simp [formGrade]
    have hc : s.ownCandidate n = false := by simp [State.ownCandidate, hu]
    have hr1 : ((evaluate n s).condition n).request = .lockout := by rw [h1.condition]; exact hr
    rcases withdrawIfDue_locked hg1 (evaluate_barHold hb hc) hr1 ho with ha | ⟨heq, hs, hn⟩
    · exact .inl ha
    · rw [heq]
      exact .inr ⟨hr1, hs, hn⟩

end Sys2Proof.Machine

/-! The agreement of the Service Table and of the other blocks (R79, R86, R98, R102, R108, R109, R129), kept by the
Condition Monitor and the Peer Monitor. -/

namespace Sys2Proof.Machine

/-- The Service Table agrees with the rest, and the other blocks agree with each other. -/
structure State.Agreement (s : State) : Prop where
  table : s.TableAgrees
  blocks : s.BlocksAgree

/-! ## The isolated flag (R98) -/

theorem isolatedNow_of_not_active {s : State} (h : s.station.phase ≠ .active) : s.isolatedNow = false := by
  simp [State.isolatedNow, h]

theorem isolatedNow_congr {s t : State} (hs : t.station = s.station) (hl : ∀ p, t.isLive p = s.isLive p) :
    t.isolatedNow = s.isolatedNow := by
  simp only [State.isolatedNow, hs, hl]

theorem isLive_of_peers {s t : State} (h : t.peers.entries = s.peers.entries) (p : StationId) :
    t.isLive p = s.isLive p := by
  have hp : t.peer p = s.peer p := by simp only [State.peer, h]
  simp only [State.isLive, hp]

/-- The state with the isolated flag that R98 gives. -/
def State.refreshed (s : State) : State := s.withPeers { s.peers with isolated := s.isolatedNow }

/-- The isolated flag follows, and at most an event is posted. -/
theorem refreshIsolated_cases (j : Option StationId) (s : State) :
    refreshIsolated j s = s.refreshed ∨ OwnerStep s.refreshed (refreshIsolated j s) := by
  simp only [refreshIsolated]
  split
  · next h =>
    left
    unfold State.refreshed
    rw [h]
    rfl
  · right
    split
    · exact post_step ..
    · split
      · exact post_step ..
      · exact post_step ..

theorem refreshIsolated_oc (j : Option StationId) (s : State) : (refreshIsolated j s).oc = s.oc := by
  simp only [refreshIsolated]
  split
  · rfl
  · split
    · rfl
    · split <;> rfl

/-- The refreshed state and the state after the report of the flag differ in the Event Queue alone. -/
theorem refreshIsolated_step (j : Option StationId) (s : State) : OwnerStep s.refreshed (refreshIsolated j s) := by
  rcases refreshIsolated_cases j s with h | h
  · rw [h]; exact .refl _
  · exact h

/-! ## Transfer of the agreement -/

/-- The blocks' agreement after an action of the Ownership Controller; in CONFIG its table has to stay as it was. -/
theorem OwnerStep.blocks {s t : State} (k : OwnerStep s t) (h : s.BlocksAgree)
    (hc : s.station.phase = .config → ∀ n, (t.entry n).state = .vacant ∧ (t.entry n).epoch = none) :
    t.BlocksAgree where
  self := fun p => by rw [k.peer, k.station]; exact h.self p
  grades := k.gradesAgree h.grades
  classes := fun n => by rw [k.condition]; exact h.classes n
  ranks := fun n => by rw [k.planOf]; exact h.ranks n
  isolated := by rw [isolatedNow_congr k.station k.isLive, k.peers]; exact h.isolated
  receiving := by rw [k.rx, k.station]; exact h.receiving
  configTable := by rw [k.station]; exact hc
  configPeers := fun e p => by rw [k.peer]; exact h.configPeers (k.station ▸ e) p
  listenTimer := by rw [k.station]; exact h.listenTimer
  statusTimer := by rw [k.station]; exact h.statusTimer

/-- The blocks' agreement reads the Service Table, the conditions, the peers, the station and receiving alone. -/
theorem State.BlocksAgree.congr {s t : State} (ho : t.oc = s.oc) (hc : t.cond = s.cond) (hp : t.peers = s.peers)
    (hs : t.station = s.station) (hr : t.rx.receiving = s.rx.receiving) (h : s.BlocksAgree) : t.BlocksAgree := by
  have hpeer : ∀ p, t.peer p = s.peer p := fun p => by simp only [State.peer, hp]
  have hcond : ∀ n, t.condition n = s.condition n := fun n => by simp only [State.condition, hc]
  have hplan : ∀ n, t.planOf n = s.planOf n := fun n => by simp only [State.planOf, hs]
  exact
    { self := fun p => by rw [hpeer, hs]; exact h.self p
      grades := fun n => by rw [hcond, hplan]; exact h.grades n
      classes := fun n => by rw [hcond]; exact h.classes n
      ranks := fun n => by rw [hplan]; exact h.ranks n
      isolated := by rw [isolatedNow_congr hs (isLive_of_peers (by rw [hp])), hp]; exact h.isolated
      receiving := by rw [hr, hs]; exact h.receiving
      configTable := fun e n => by rw [entry_of_oc ho]; exact h.configTable (hs ▸ e) n
      configPeers := fun e p => by rw [hpeer]; exact h.configPeers (hs ▸ e) p
      listenTimer := by rw [hs]; exact h.listenTimer
      statusTimer := by rw [hs]; exact h.statusTimer }

namespace State.Agreement
variable {s t : State}

theorem grades (h : s.Agreement) : s.GradesAgree := h.blocks.grades

/-- Outside CONFIG an action of the Ownership Controller need only keep its own table in agreement. -/
theorem ownerStep (h : s.Agreement) (k : OwnerStep s t) (hp : s.station.phase ≠ .config) (ht : t.TableAgrees) :
    t.Agreement := ⟨ht, k.blocks h.blocks fun hc => absurd hc hp⟩

theorem entryStep {n : Service} (h : s.Agreement) (k : EntryStep n s t) (hp : s.station.phase ≠ .config)
    (ht : t.EntryAgrees n) : t.Agreement := h.ownerStep k.owner hp (k.tableAgrees ht h.table)

/-- An action that leaves the Service Table, the conditions, the peers, the station and receiving alone. -/
theorem elsewhere (h : s.Agreement) (ho : t.oc = s.oc) (hc : t.cond = s.cond) (hp : t.peers = s.peers)
    (hs : t.station = s.station) (hr : t.rx.receiving = s.rx.receiving) : t.Agreement := by
  refine ⟨⟨fun n => EntryAgrees.congr (entry_of_oc ho n) (by rw [hs]) (isLive_of_peers (by rw [hp])) ?_
    (h.table.entry n)⟩, h.blocks.congr ho hc hp hs hr⟩
  simp only [State.MayHold, State.planOf, State.condition, hs, hc]
  exact id

/-- An `OwnerStep` that leaves the table alone. -/
theorem quiet (h : s.Agreement) (k : OwnerStep s t) (ho : t.oc = s.oc) : t.Agreement :=
  h.elsewhere ho k.cond k.peers k.station (by rw [k.rx])

/-- In CONFIG every entry is VACANT without a record (R19). -/
theorem config_record (h : s.Agreement) (hp : s.station.phase = .config) (n : Service) :
    (s.entry n).record = none := ((entryAgrees_vacant (h.blocks.configTable hp n).1).1 (h.table.entry n)).2

end State.Agreement

theorem post_agreement (k : EventKind) (n : Option Service) (p : Option StationId) (e : Option Epoch)
    (d : Option Detail) {s : State} (h : s.Agreement) : (post k n p e d s).Agreement := h.quiet (post_step ..) rfl

theorem withTx_agreement (x : Transmitter) {s : State} (h : s.Agreement) : (s.withTx x).Agreement :=
  h.elsewhere rfl rfl rfl rfl rfl

theorem withHost_agreement (x : HostPort) {s : State} (h : s.Agreement) : (s.withHost x).Agreement :=
  h.elsewhere rfl rfl rfl rfl rfl

theorem withRx_agreement {x : Receiver} {s : State} (hx : x.receiving = s.rx.receiving) (h : s.Agreement) :
    (s.withRx x).Agreement := h.elsewhere rfl rfl rfl rfl hx

theorem takeNext_agreement {s : State} (h : s.Agreement) : (takeNext s).Agreement :=
  h.quiet (takeNext_step s) (takeNext_oc s)

theorem enqueue_agreement (f : TxQueue → TxQueue) {s : State} (h : s.Agreement) : (enqueue f s).Agreement := by
  rw [enqueue_fields]
  exact withTx_agreement _ h

theorem evaluateAll_agreement {s : State} (hp : s.station.phase ≠ .config) (h : s.Agreement) :
    (evaluateAll s).Agreement := h.ownerStep (evaluateAll_step s) hp (evaluateAll_agrees h.grades h.table)

theorem reportFlag_agreement (b : Bool) {s : State} (hp : s.station.phase ≠ .config) (h : s.Agreement) :
    (reportFlag b s).Agreement := by
  unfold reportFlag
  split
  · exact h
  · exact evaluateAll_agreement hp h

theorem reportFlag_step (b : Bool) (s : State) : OwnerStep s (reportFlag b s) := by
  unfold reportFlag
  split
  · exact .refl s
  · exact evaluateAll_step s

/-- An operation on each service keeps what each of its parts keeps. -/
theorem forEach_keeps {P : State → Prop} {f : Fin 16 → State → State} (hf : ∀ n s, P s → P (f n s)) {s : State}
    (h : P s) : P (forEach f s) := by
  unfold forEach
  induction allSixteen generalizing s with
  | nil => exact h
  | cons n rest ih => exact ih (hf n s h)

/-! ## Timers of one entry that run out (R4, R28, R56) -/

/-- In CONFIG an operation on entry `n` that keeps its state and epoch keeps the table as R19 left it. -/
theorem EntryStep.configTable {n : Service} {s t : State} (k : EntryStep n s t) (h : s.Agreement)
    (he : s.station.phase = .config →
      (t.entry n).state = (s.entry n).state ∧ (t.entry n).epoch = (s.entry n).epoch) (ht : t.EntryAgrees n) :
    t.Agreement := by
  refine ⟨k.tableAgrees ht h.table, k.owner.blocks h.blocks fun hp m => ?_⟩
  by_cases hm : m = n
  · subst hm
    rw [(he hp).1, (he hp).2]
    exact h.blocks.configTable hp m
  · rw [(k.others m hm).1]
    exact h.blocks.configTable hp m

theorem wtrRunsOut_agreement (n : Service) {s : State} (h : s.Agreement) : (wtrRunsOut n s).Agreement := by
  refine (wtrRunsOut_entryStep n s).configTable h ?_ ?_
  · intro hp
    unfold wtrRunsOut
    split
    · split
      · rw [evaluate_of_not_active (by simp [hp]), putEntry_entry_same, stamp_state, stamp_epoch]
        exact ⟨rfl, rfl⟩
      · exact ⟨rfl, rfl⟩
    · exact ⟨rfl, rfl⟩
  · unfold wtrRunsOut
    split
    · split
      · exact evaluate_agrees ((putEntry_step ..).gradesAgree h.grades)
          (putEntry_agrees ((h.table.entry n).of_fields rfl rfl rfl))
      · exact h.table.entry n
    · exact h.table.entry n

theorem retryRunsOut_agreement (n : Service) {s : State} (h : s.Agreement) : (retryRunsOut n s).Agreement := by
  refine (retryRunsOut_entryStep n s).configTable h ?_ ?_
  · intro hp
    unfold retryRunsOut
    split
    · rw [evaluate_of_not_active (by simp [hp]), putEntry_entry_same, stamp_state, stamp_epoch]
      exact ⟨rfl, rfl⟩
    · exact ⟨rfl, rfl⟩
  · unfold retryRunsOut
    split
    · exact evaluate_agrees ((putEntry_step ..).gradesAgree h.grades)
        (putEntry_agrees ((h.table.entry n).of_fields rfl rfl rfl))
    · exact h.table.entry n

theorem windowRunsOut_agreement (n : Service) {s : State} (h : s.Agreement) : (windowRunsOut n s).Agreement := by
  refine (windowRunsOut_entryStep n s).configTable h ?_ ?_
  · intro hp
    unfold windowRunsOut
    rw [h.config_record hp]
    exact ⟨rfl, rfl⟩
  · unfold windowRunsOut
    split
    · next r hr =>
      split
      · exact endWindow_agrees h.grades (h.table.entry n) hr
      · exact h.table.entry n
    · exact h.table.entry n

/-! ## The Condition Monitor -/

theorem putCondition_condition (n m : Service) (c : ServiceCondition) (s : State) :
    (putCondition n c s).condition m = if m = n then c else s.condition m := by
  split
  · next h => subst h; exact putCondition_condition_same ..
  · next h => exact putCondition_condition_ne _ _ h

/-- What the Condition Monitor holds for a service, with grade and class formed anew (R79). -/
def ServiceCondition.formed (c : ServiceCondition) (p : PlanRecord) : ServiceCondition :=
  { c with grade := formGrade p c.debounced c.request, cls := formClass c.request }

/-- Forming grade and class anew writes the formed condition (R79). -/
theorem reform_putCondition (n : Service) (c : ServiceCondition) (s : State) :
    reform n (putCondition n c s) = putCondition n (c.formed (s.planOf n)) s := by
  simp only [reform, putCondition_condition_same]
  have hplace : ∀ {α : Type} (t : Table α) (x y : α), place (place t n x) n y = place t n y := by
    intro α t x y
    refine table_ext fun i => ?_
    simp only [look_place]
    split <;> rfl
  simp only [putCondition, hplace]
  rfl

/-- The blocks agree again once the condition of a service is formed from its plan record (R79). -/
theorem putCondition_blocks {n : Service} {c : ServiceCondition} {s : State}
    (hg : c.grade = formGrade (s.planOf n) c.debounced c.request) (hc : c.cls = formClass c.request)
    (h : s.BlocksAgree) : (putCondition n c s).BlocksAgree where
  self := h.self
  grades := fun m => by
    rw [putCondition_condition]
    split
    · next hm => subst hm; exact hg
    · exact h.grades m
  classes := fun m => by
    rw [putCondition_condition]
    split
    · exact hc
    · exact h.classes m
  ranks := h.ranks
  isolated := h.isolated
  receiving := h.receiving
  configTable := h.configTable
  configPeers := h.configPeers
  listenTimer := h.listenTimer
  statusTimer := h.statusTimer

theorem putCondition_mayHold {n m : Service} {c : ServiceCondition} {s : State}
    (hr : m = n → (s.condition n).request ≠ .lockout → c.request ≠ .lockout) (h : s.MayHold m) :
    (putCondition n c s).MayHold m := by
  obtain ⟨hp, hrank, hd, hl⟩ := h
  refine ⟨hp, hrank, hd, ?_⟩
  rw [putCondition_condition]
  split
  · next hm => exact hr hm (hm ▸ hl)
  · exact hl

/-- A change of the Condition Monitor that accepts no LOCKOUT. -/
theorem putCondition_agrees {n : Service} {c : ServiceCondition} {s : State}
    (hr : (s.condition n).request ≠ .lockout → c.request ≠ .lockout) (h : s.TableAgrees) :
    (putCondition n c s).TableAgrees :=
  ⟨fun m => EntryAgrees.congr (s := s) rfl rfl (fun _ => rfl) (putCondition_mayHold fun _ => hr) (h.entry m)⟩

theorem putCondition_agreement {n : Service} {c : ServiceCondition} {s : State}
    (hd : c.debounced = (s.condition n).debounced)
    (hr : c.request = (s.condition n).request) (hg : c.grade = (s.condition n).grade)
    (hc : c.cls = (s.condition n).cls) (h : s.Agreement) : (putCondition n c s).Agreement :=
  ⟨putCondition_agrees (by rw [hr]; exact id) h.table,
    putCondition_blocks (by rw [hg, hd, hr]; exact h.blocks.grades n) (by rw [hc, hr]; exact h.blocks.classes n)
      h.blocks⟩

/-- In CONFIG a report reaches nothing: no evaluation, no claim, nothing held. -/
theorem report_of_config {n : Service} {s : State} {old : ServiceCondition} (hp : s.station.phase = .config)
    (hs : (s.entry n).state = .vacant) (hr : (s.entry n).record = none) :
    releaseIfLocked n (withdrawIfDue n old (evaluate n s)) = s := by
  rw [evaluate_of_not_active (by simp [hp])]
  simp [withdrawIfDue, State.withdrawalDue, hr, releaseIfLocked, hs]

theorem report_entryStep (n : Service) (old : ServiceCondition) (s : State) :
    EntryStep n s (releaseIfLocked n (withdrawIfDue n old (evaluate n s))) :=
  ((evaluate_entryStep ..).trans (withdrawIfDue_entryStep ..)).trans (releaseIfLocked_entryStep ..)

theorem reportStatus_agreement {s : State} (h : s.Agreement) : (reportStatus s).Agreement := by
  unfold reportStatus
  split
  · exact enqueue_agreement _ h
  · exact h

theorem postGrade_cases (n : Service) (g : Grade) (s : State) :
    postGrade n g s = s ∨
      postGrade n g s = post .gradeChanged (some n) none none (some (.grade (s.condition n).grade)) s := by
  simp only [postGrade]
  split
  · exact .inr rfl
  · exact .inl rfl

theorem postGrade_oc (n : Service) (g : Grade) (s : State) : (postGrade n g s).oc = s.oc := by
  rcases postGrade_cases n g s with h | h <;> rw [h]
  rfl

/-- A report on a state whose entry `n` agrees, or agrees but for a LOCKOUT that has just been accepted (R53, R80). -/
theorem takeReport_agreement {n : Service} {s : State} {old : ServiceCondition} (hb : s.BlocksAgree)
    (ho : ∀ m, m ≠ n → s.EntryAgrees m)
    (h : s.EntryAgrees n ∨
      (s.AgreesBarHold n ∧ (s.condition n).request = .lockout ∧ old.request ≠ .lockout)) :
    (takeReport n old s).Agreement := by
  have k := report_entryStep n old s
  have hn := report_agrees hb.grades h
  unfold takeReport
  refine reportStatus_agreement ⟨⟨fun m => ?_⟩, ?_⟩
  · by_cases hm : m = n
    · subst hm; exact hn
    · exact k.agrees_other hm (ho m hm)
  · by_cases hp : s.station.phase = .config
    · have hv := (hb.configTable hp n).1
      have hrec : (s.entry n).record = none := by
        rcases h with h | h
        · exact ((entryAgrees_vacant hv).1 h).2
        · have := h.1
          unfold State.AgreesBarHold ServiceEntry.Agrees at this
          rw [hv] at this
          exact this.2
      rw [report_of_config hp hv hrec]
      exact hb
    · exact k.owner.blocks hb fun hc => absurd hc hp

/-- A station that may hold a service publishes a grade for it (R6, R79). -/
theorem State.MayHold.grade_ne_unav {s : State} {n : Service} (h : s.MayHold n)
    (hg : (s.condition n).grade = formGrade (s.planOf n) (s.condition n).debounced (s.condition n).request) :
    (s.condition n).grade ≠ .unav := by
  obtain ⟨-, hr, hd, hl⟩ := h
  rw [hg]
  unfold formGrade
  rw [if_neg (by simp [hd, hr, hl])]
  split <;> simp

/-- A change of the debounced condition or of the request keeps the agreement (R79, R80). -/
theorem updateCondition_agreement (n : Service) (c : ServiceCondition) {s : State} (h : s.Agreement) :
    (updateCondition n c s).Agreement := by
  have hb : (putCondition n (c.formed (s.planOf n)) s).BlocksAgree := putCondition_blocks rfl rfl h.blocks
  have hother : ∀ m, m ≠ n → (putCondition n (c.formed (s.planOf n)) s).EntryAgrees m := fun m hm =>
    EntryAgrees.congr (s := s) rfl rfl (fun _ => rfl) (putCondition_mayHold fun e => absurd e hm) (h.table.entry m)
  simp only [updateCondition, reform_putCondition, putCondition_condition_same]
  by_cases hlock : (s.condition n).request ≠ .lockout → c.request ≠ .lockout
  · have ht : (putCondition n (c.formed (s.planOf n)) s).TableAgrees := putCondition_agrees hlock h.table
    split
    · exact ⟨ht, hb⟩
    · have hp := post_agreement .gradeChanged (some n) none none
        (some (.grade ((putCondition n (c.formed (s.planOf n)) s).condition n).grade)) ⟨ht, hb⟩
      have hpost : (postGrade n (s.condition n).grade (putCondition n (c.formed (s.planOf n)) s)).Agreement := by
        rcases postGrade_cases n (s.condition n).grade (putCondition n (c.formed (s.planOf n)) s) with e | e <;> rw [e]
        · exact ⟨ht, hb⟩
        · exact hp
      exact takeReport_agreement hpost.blocks (fun m _ => hpost.table.entry m) (.inl (hpost.table.entry n))
  · obtain ⟨hold, hnew⟩ := Classical.not_imp.1 hlock
    have hnew : c.request = .lockout := by simpa using hnew
    split
    · next hsame =>
      refine ⟨⟨fun m => EntryAgrees.congr (s := s) rfl rfl (fun _ => rfl) ?_ (h.table.entry m)⟩, hb⟩
      intro hmay
      refine putCondition_mayHold (fun hm _ => ?_) hmay
      subst hm
      refine absurd ?_ (hmay.grade_ne_unav (h.blocks.grades m))
      rw [← hsame.1]
      simp [ServiceCondition.formed, formGrade, hnew]
    · have k := postGrade_step n (s.condition n).grade (putCondition n (c.formed (s.planOf n)) s)
      have he := entry_of_oc (postGrade_oc n (s.condition n).grade (putCondition n (c.formed (s.planOf n)) s))
      refine takeReport_agreement (k.blocks hb fun hp m => ?_) (fun m hm => k.agrees (he m) (hother m hm))
        (.inr ⟨?_, ?_, hold⟩)
      · rw [he]
        exact hb.configTable hp m
      · unfold State.AgreesBarHold
        rw [he, k.station, funext k.isLive]
        exact (h.table.entry n).barHold
      · rw [k.condition, putCondition_condition_same]
        exact hnew

theorem debounce_agreement (n : Service) {s : State} (h : s.Agreement) : (debounce n s).Agreement :=
  takeNext_agreement (updateCondition_agreement n _ h)

theorem rawChanged_agreement (n : Service) {s : State} (h : s.Agreement) : (rawChanged n s).Agreement := by
  simp only [rawChanged]
  split
  · exact putCondition_agreement rfl rfl rfl rfl h
  · split
    · split
      · exact debounce_agreement n h
      · exact putCondition_agreement rfl rfl rfl rfl h
    · exact putCondition_agreement rfl rfl rfl rfl h

theorem setPins_agreement (n : Service) (sf sd : Bool) {s : State} (h : s.Agreement) :
    (setPins n sf sd s).Agreement := by
  have hput : (putCondition n { s.condition n with sf := sf, sd := sd, raw := rawOf sf sd } s).Agreement :=
    putCondition_agreement rfl rfl rfl rfl h
  simp only [setPins]
  split
  · exact rawChanged_agreement n hput
  · exact hput

theorem conditionRunsOut_agreement (n : Service) {s : State} (h : s.Agreement) : (conditionRunsOut n s).Agreement := by
  unfold conditionRunsOut
  split
  · exact debounce_agreement n h
  · exact h

theorem setResult_agreement (r : CommandResult) {s : State} (h : s.Agreement) : (setResult r s).Agreement :=
  withHost_agreement _ h

theorem operatorRequest_agreement (r : Request) (b : Bool) {s : State} (h : s.Agreement) :
    (operatorRequest r b s).Agreement := by
  unfold operatorRequest
  split
  · exact takeNext_agreement (updateCondition_agreement _ _ (setResult_agreement _ h))
  · exact setResult_agreement _ h

end Sys2Proof.Machine

/-! The agreement of the tables kept by the Peer Monitor. -/

namespace Sys2Proof.Machine

/-! ## Peers (R88 to R96) -/

theorem putPeer_peer (p q : StationId) (e : PeerEntry) (s : State) :
    (putPeer p e s).peer q = if q = p then e else s.peer q := by
  split
  · next h => subst h; exact putPeer_peer_same ..
  · next h => exact putPeer_peer_ne _ _ h

theorem putPeer_isLive_ne {p q : StationId} (e : PeerEntry) (s : State) (h : q ≠ p) :
    (putPeer p e s).isLive q = s.isLive q := by
  simp only [State.isLive, putPeer_peer_ne e s h]

/-- A peer's entry that is LIVE or not as before leaves the LIVE peers as they are. -/
theorem putPeer_isLive {p : StationId} {e : PeerEntry} {s : State} (hl : e.state = .live ↔ (s.peer p).state = .live)
    (q : StationId) : (putPeer p e s).isLive q = s.isLive q := by
  by_cases hq : q = p
  · subst hq
    simp [State.isLive, hl]
  · exact putPeer_isLive_ne e s hq

/-- A station that has left CONFIG, with its own ID, in agreement. -/
structure State.Running (s : State) (own : StationId) : Prop extends s.Agreement where
  phase : s.station.phase ≠ .config
  ownId : s.station.ownId = own

namespace State.Running
variable {s t : State} {own : StationId}

theorem ownerStep (h : s.Running own) (k : OwnerStep s t) (ht : t.TableAgrees) : t.Running own :=
  ⟨h.toAgreement.ownerStep k h.phase ht, by rw [k.station]; exact h.phase, by rw [k.station]; exact h.ownId⟩

theorem entryStep {n : Service} (h : s.Running own) (k : EntryStep n s t) (ht : t.EntryAgrees n) : t.Running own :=
  h.ownerStep k.owner (k.tableAgrees ht h.table)

theorem elsewhere (h : s.Running own) (ho : t.oc = s.oc) (hc : t.cond = s.cond) (hp : t.peers = s.peers)
    (hs : t.station = s.station) (hr : t.rx.receiving = s.rx.receiving) : t.Running own :=
  ⟨h.toAgreement.elsewhere ho hc hp hs hr, by rw [hs]; exact h.phase, by rw [hs]; exact h.ownId⟩

theorem quiet (h : s.Running own) (k : OwnerStep s t) (ho : t.oc = s.oc) : t.Running own :=
  h.elsewhere ho k.cond k.peers k.station (by rw [k.rx])

end State.Running

theorem post_running (k : EventKind) (n : Option Service) (p : Option StationId) (e : Option Epoch)
    (d : Option Detail) {s : State} {own : StationId} (h : s.Running own) : (post k n p e d s).Running own :=
  h.quiet (post_step ..) rfl

theorem withTx_running (x : Transmitter) {s : State} {own : StationId} (h : s.Running own) : (s.withTx x).Running own :=
  h.elsewhere rfl rfl rfl rfl rfl

theorem withRx_running {x : Receiver} {s : State} {own : StationId} (hx : x.receiving = s.rx.receiving)
    (h : s.Running own) : (s.withRx x).Running own := h.elsewhere rfl rfl rfl rfl hx

theorem reportFlag_running (b : Bool) {s : State} {own : StationId} (h : s.Running own) :
    (reportFlag b s).Running own :=
  h.ownerStep (reportFlag_step b s) (reportFlag_agreement b h.phase h.toAgreement).table

/-- The blocks agree, with the flag refreshed, after a peer's entry changed to another state than SELF (R86, R98). -/
theorem putPeer_refreshed {p : StationId} {e : PeerEntry} {s : State} (h : s.BlocksAgree)
    (hp : p ≠ s.station.ownId) (hs : e.state ≠ .self) (hc : s.station.phase ≠ .config) :
    (putPeer p e s).refreshed.BlocksAgree where
  self := fun q => by
    show ((putPeer p e s).peer q).state = .self ↔ _
    rw [putPeer_peer]
    split
    · next hq => exact ⟨fun h => absurd h hs, fun h => absurd (hq.symm.trans h) hp⟩
    · exact h.self q
  grades := h.grades
  classes := h.classes
  ranks := h.ranks
  isolated := rfl
  receiving := h.receiving
  configTable := fun e => absurd e hc
  configPeers := fun e => absurd e hc
  listenTimer := h.listenTimer
  statusTimer := h.statusTimer

/-- The blocks agree after a change of a peer's entry that the isolated flag does not read. -/
theorem putPeer_blocks {p : StationId} {e : PeerEntry} {s : State} (h : s.BlocksAgree)
    (hp : p ≠ s.station.ownId) (hs : e.state ≠ .self) (hc : s.station.phase ≠ .config)
    (hl : e.state = .live ↔ (s.peer p).state = .live) : (putPeer p e s).BlocksAgree := by
  have hb := putPeer_refreshed h hp hs hc
  have heq : (putPeer p e s).refreshed = putPeer p e s := by
    unfold State.refreshed
    rw [isolatedNow_congr (s := s) (t := putPeer p e s) rfl (putPeer_isLive hl), ← h.isolated]
    rfl
  rwa [heq] at hb

/-- A peer's entry changes in what LIVE and SELF do not read. -/
theorem putPeer_running {p : StationId} {e : PeerEntry} {s : State} {own : StationId} (h : s.Running own)
    (hp : p ≠ own) (hs : e.state ≠ .self) (hl : e.state = .live ↔ (s.peer p).state = .live) :
    (putPeer p e s).Running own :=
  ⟨⟨⟨fun n => EntryAgrees.congr (s := s) rfl rfl (putPeer_isLive hl) id (h.table.entry n)⟩,
    putPeer_blocks h.blocks (h.ownId ▸ hp) hs h.phase hl⟩, h.phase, h.ownId⟩

/-- A peer's state has changed and its flag is up to date; the Ownership Controller has not been told yet. -/
structure State.Unreported (s : State) (p : StationId) (live : StationId → Bool) (own : StationId) : Prop where
  blocks : s.BlocksAgree
  entries : ∀ n, s.AgreedBefore p live n
  phase : s.station.phase ≠ .config
  ownId : s.station.ownId = own

theorem State.Running.unreported {s : State} {own p : StationId} (h : s.Running own) (hp : p ≠ own) :
    s.Unreported p s.isLive own :=
  ⟨h.blocks, fun n => ⟨h.ownId ▸ hp, fun _ _ => rfl, h.table.entry n⟩, h.phase, h.ownId⟩

/-- Outside CONFIG an `OwnerStep` before the flag is refreshed keeps the blocks' agreement. -/
theorem OwnerStep.refreshed {s u : State} (k : OwnerStep s u) (h : s.refreshed.BlocksAgree)
    (hp : s.station.phase ≠ .config) : u.refreshed.BlocksAgree := by
  have hlive := fun q => isLive_of_peers (s := s.refreshed) (t := u.refreshed)
    (show u.peers.entries = s.peers.entries by rw [k.peers]) q
  exact
    { self := fun q => by
        show (u.peer q).state = .self ↔ q = u.station.ownId
        rw [k.peer, k.station]
        exact h.self q
      grades := fun n => by
        show (u.condition n).grade = formGrade (u.planOf n) (u.condition n).debounced (u.condition n).request
        rw [k.condition, k.planOf]
        exact h.grades n
      classes := fun n => by
        show (u.condition n).cls = formClass (u.condition n).request
        rw [k.condition]
        exact h.classes n
      ranks := fun n => by
        show (u.planOf n).defined = false → (u.planOf n).rank = 0
        rw [k.planOf]
        exact h.ranks n
      isolated := rfl
      receiving := by
        show u.rx.receiving = decide (u.station.phase ≠ .config)
        rw [k.rx, k.station]
        exact h.receiving
      configTable := fun e => absurd (k.station ▸ e) hp
      configPeers := fun e => absurd (k.station ▸ e) hp
      listenTimer := by
        show u.station.phase ≠ .listen → u.station.listenTimer = none
        rw [k.station]
        exact h.listenTimer
      statusTimer := by
        show u.station.phase ≠ .listen → u.station.phase ≠ .active → u.station.statusTimer = none
        rw [k.station]
        exact h.statusTimer }

/-- A peer's entry changes, its event is posted and the flag follows (R89, R92 to R96, R98). -/
theorem peerChange_unreported {p : StationId} {e : PeerEntry} {s u : State} {own : StationId} (h : s.Running own)
    (hp : p ≠ own) (hs : e.state ≠ .self) (k : OwnerStep (putPeer p e s) u) (hu : u.oc = s.oc) (j : Option StationId) :
    (refreshIsolated j u).Unreported p s.isLive own := by
  have k2 := refreshIsolated_step j u
  have ho : (refreshIsolated j u).oc = s.oc := (refreshIsolated_oc j u).trans hu
  have hst : (refreshIsolated j u).station = s.station := k2.station.trans k.station
  have hcond : (refreshIsolated j u).cond = s.cond := k2.cond.trans k.cond
  have hb := k.refreshed (putPeer_refreshed h.blocks (h.ownId ▸ hp) hs h.phase) h.phase
  refine ⟨k2.blocks hb fun e => absurd (k.station ▸ e) h.phase, fun n => ⟨?_, fun q hq => ?_, ?_⟩, ?_, ?_⟩
  · rw [hst, h.ownId]
    exact hp
  · have h1 : (refreshIsolated j u).isLive q = u.isLive q := k2.isLive q
    rw [h1, k.isLive, putPeer_isLive_ne e s hq]
  · rw [entry_of_oc ho n, hst]
    refine ServiceEntry.Agrees.imp (fun _ hm => ?_) (h.table.entry n)
    simpa [State.MayHold, State.planOf, State.condition, hst, hcond] using hm
  · rw [hst]
    exact h.phase
  · rw [hst]
    exact h.ownId

theorem State.Unreported.report {s : State} {p own : StationId} {live : StationId → Bool}
    (h : s.Unreported p live own) : (reportPeerState p s).Running own := by
  have k := reportPeerState_step p s
  exact ⟨⟨reportPeerState_agrees h.blocks.grades h.entries, k.blocks h.blocks fun hc => absurd hc h.phase⟩,
    by rw [k.station]; exact h.phase, by rw [k.station]; exact h.ownId⟩

theorem State.Unreported.departure {s : State} {p own : StationId} {live : StationId → Bool}
    (h : s.Unreported p live own) : (reportDeparture p s).Running own := by
  have k := reportDeparture_step p s
  exact ⟨⟨reportDeparture_agrees h.blocks.grades h.entries, k.blocks h.blocks fun hc => absurd hc h.phase⟩,
    by rw [k.station]; exact h.phase, by rw [k.station]; exact h.ownId⟩

theorem State.Unreported.peer_ne_self {s : State} {p own : StationId} {live : StationId → Bool}
    (h : s.Unreported p live own) (hp : p ≠ own) : (s.peer p).state ≠ .self :=
  fun e => hp (((h.blocks.self p).1 e).trans h.ownId)

/-- Published data do not touch what stands unreported. -/
theorem State.Unreported.data {s : State} {p own : StationId} {live : StationId → Bool} (h : s.Unreported p live own)
    (hp : p ≠ own) (b : Option StatusBody) : (putPeer p { s.peer p with data := b } s).Unreported p live own := by
  have hlive := putPeer_isLive (e := { s.peer p with data := b }) (s := s) (p := p) Iff.rfl
  exact ⟨putPeer_blocks h.blocks (h.ownId ▸ hp) (h.peer_ne_self hp) h.phase Iff.rfl,
    fun n => ⟨(h.entries n).peer, fun q hq => by rw [hlive]; exact (h.entries n).others q hq, (h.entries n).entry⟩,
    h.phase, h.ownId⟩

section
variable {p own : StationId} {s : State} (h : s.Running own) (hp : p ≠ own)
include h hp

theorem State.Running.peer_ne_self : (s.peer p).state ≠ .self :=
  fun e => hp (((h.blocks.self p).1 e).trans h.ownId)

theorem takeMismatch_running : (takeMismatch p s).Running own := by
  unfold takeMismatch
  split
  · next hs => exact putPeer_running h hp (by simp [hs]) (by simp)
  · exact reportFlag_running _ (peerChange_unreported h hp (by simp) (post_step ..) rfl none).report

theorem arrive_running (body : FrameBody) (hl : (s.peer p).state ≠ .live) : (arrive p body s).Running own := by
  have hput : (putPeer p { s.peer p with state := .arriving, inOrder := 0, silence := some Config.silence } s).Running
      own := putPeer_running h hp (by simp) (by simp [hl])
  simp only [arrive]
  split
  · exact hput.quiet (requestStatus_step _) (request_oc ..)
  · exact hput

/-- The state step leaves a changed peer unreported, and the agreement untouched otherwise (R92, R93). -/
theorem stateStep_running (body : FrameBody) (follows : Bool) :
    ((s.peer p).stateChanges body follows = true ∧ ∃ live, (stateStep p body follows s).Unreported p live own) ∨
      ((s.peer p).stateChanges body follows = false ∧ (stateStep p body follows s).Running own) := by
  have harrive : (s.peer p).state ≠ .live → ∃ live, (arrive p body s).Unreported p live own := fun hl =>
    ⟨_, (arrive_running h hp body hl).unreported hp⟩
  simp only [stateStep, PeerEntry.stateChanges]
  cases hs : (s.peer p).state with
  | arriving =>
    by_cases hr : (s.peer p).reachesLive body follows = true
    · simp only [hr, if_true]
      exact .inl ⟨trivial, _, peerChange_unreported h hp (by simp) (post_step ..) rfl (some p)⟩
    · simp only [hr]
      exact .inr ⟨trivial, putPeer_running h hp (by simp) (by simp [hs])⟩
  | live => exact .inr ⟨rfl, h⟩
  | self => exact .inr ⟨rfl, h⟩
  | absent => exact .inl ⟨rfl, harrive (by simp [hs])⟩
  | silent => exact .inl ⟨rfl, harrive (by simp [hs])⟩
  | incompatible => exact .inl ⟨rfl, harrive (by simp [hs])⟩

theorem replaceData_running (body : FrameBody) : (replaceData p body s).Running own := by
  unfold replaceData
  split
  · exact putPeer_running h hp (h.peer_ne_self hp) Iff.rfl
  · exact h
  · exact h
  · exact h

theorem depart_running : (depart p s).Running own :=
  reportFlag_running _ (peerChange_unreported h hp (by simp) (post_step ..) rfl none).departure

theorem takeData_running (body : FrameBody) (follows : Bool) : (takeData p body follows s).Running own := by
  have hreported : (reportChange p ((s.peer p).stateChanges body follows) s.peers.isolated
      (replaceData p body (stateStep p body follows s))).Running own := by
    unfold reportChange
    rcases stateStep_running h hp body follows with ⟨hc, live, hu⟩ | ⟨hc, hr⟩
    · rw [if_pos hc]
      refine reportFlag_running _ (State.Unreported.report (live := live) ?_)
      unfold replaceData
      split
      · exact hu.data hp _
      · exact hu
      · exact hu
      · exact hu
    · rw [hc]
      exact replaceData_running hr hp body
  have hdelivered := hreported.ownerStep (deliver_step p body
      (frameMarks ((stateStep p body follows s).peer p).data body) _)
    (deliver_agrees hreported.grades (by rw [hreported.ownId]; exact hp) hreported.table body _)
  simp only [takeData, departIfLeaving]
  split
  · exact depart_running hdelivered hp
  · exact hdelivered

theorem becomeSilent_running (a : Bool) : (becomeSilent p a s).Running own := by
  refine reportFlag_running _ (State.Unreported.report (live := s.isLive) ?_)
  unfold announceSilence
  split
  · exact peerChange_unreported h hp (by simp) (post_step ..) rfl none
  · exact peerChange_unreported h hp (by simp) (.refl _) rfl none

end

@[simp] theorem restartSilence_state (e : PeerEntry) : e.restartSilence.state = e.state := by
  unfold PeerEntry.restartSilence
  split <;> rfl

theorem takeFrame_running {f : Frame} {own : StationId} {s : State} (h : s.Running own) (hp : f.sender ≠ own) :
    (takeFrame f s).Running own := by
  have h1 : (putPeer f.sender { s.peer f.sender with checksumSeen := some f.checksum } s).Running own :=
    putPeer_running h hp (h.peer_ne_self hp) Iff.rfl
  simp only [takeFrame]
  split
  · exact takeMismatch_running h1 hp
  · split
    · exact putPeer_running h1 hp (h1.peer_ne_self hp) Iff.rfl
    · exact takeData_running (putPeer_running h1 hp (by simpa [PeerEntry.takeSeq] using h.peer_ne_self hp)
        (by simp [PeerEntry.takeSeq])) hp ..

theorem peerTimerRunsOut_agreement (p : StationId) {s : State} (h : s.Agreement) :
    (peerTimerRunsOut p s).Agreement := by
  unfold peerTimerRunsOut
  split
  · next ht =>
    by_cases hc : s.station.phase = .config
    · rw [(h.blocks.configPeers hc p).2] at ht
      cases ht
    · have hr : s.Running s.station.ownId := ⟨h, hc, rfl⟩
      have hne : (s.peer p).state ≠ .self → p ≠ s.station.ownId := fun hs e => hs ((h.blocks.self p).2 e)
      unfold silenceRunsOut
      split
      · next hs => exact (becomeSilent_running hr (hne (by simp [hs])) true).toAgreement
      · next hs => exact (becomeSilent_running hr (hne (by simp [hs])) false).toAgreement
      · next hs =>
        have hp := hne (by simp [hs])
        exact ((putPeer_running hr hp (by simp) (by simp [hs])).unreported hp).report.toAgreement
      · exact h
      · exact h
      · exact h
  · exact h

end Sys2Proof.Machine

/-! The agreement of the tables kept by the Station Controller, the Transmitter, the line and the host, and so by every
step. -/

namespace Sys2Proof.Machine

/-! ## Phases (R103 to R117) -/

/-- Outside ACTIVE nothing is held or claimed, so that the phase may change (R6). -/
theorem EntryAgrees.of_inactive {s t : State} {n : Service} (hp : s.station.phase ≠ .active)
    (he : t.entry n = s.entry n) (ho : t.station.ownId = s.station.ownId) (hl : ∀ p, t.isLive p = s.isLive p)
    (h : s.EntryAgrees n) : t.EntryAgrees n := EntryAgrees.congr he ho hl (fun hm => absurd hm.1 hp) h

/-- A VACANT entry without owner and record agrees with any station. -/
theorem entryAgrees_of_vacant {s : State} {n : Service} (hs : (s.entry n).state = .vacant)
    (ho : (s.entry n).owner = none) (hr : (s.entry n).record = none) : s.EntryAgrees n :=
  (entryAgrees_vacant hs).2 ⟨ho, hr⟩

theorem listenEntry_agreement (n : Service) {s : State} (h : s.Agreement) : (listenEntry n s).Agreement :=
  updateCondition_agreement n _ h

/-- START leaves a table as R19 left it, and a receiver that receives (R78, R106, R129). -/
theorem startStation_agreement {s : State} (hp : s.station.phase = .config) (h : s.Agreement) :
    (startStation s).Agreement := by
  have hna : s.station.phase ≠ .active := by simp [hp]
  refine post_agreement _ _ _ _ _ (takeNext_agreement (forEach_keeps listenEntry_agreement (enqueue_agreement _ ?_)))
  refine ⟨⟨fun n => EntryAgrees.of_inactive hna (s := s) rfl rfl (fun _ => rfl) (h.table.entry n)⟩, ?_⟩
  exact
    { self := h.blocks.self
      grades := h.blocks.grades
      classes := h.blocks.classes
      ranks := h.blocks.ranks
      isolated := by
        rw [isolatedNow_of_not_active (by simp)]
        exact h.blocks.isolated.trans (isolatedNow_of_not_active hna)
      receiving := by simp [Receiver.idled]
      configTable := by simp
      configPeers := by simp
      listenTimer := by simp
      statusTimer := by simp }

/-- The blocks agree, with the flag refreshed, when a running station changes its phase (R98, R108, R109). -/
theorem refreshed_of_phase {s t : State} {own : StationId} (h : s.Running own)
    (hpeers : t.peers = s.peers) (hcond : t.cond = s.cond) (hplan : t.station.plan = s.station.plan)
    (ho : t.station.ownId = s.station.ownId) (hrx : t.rx = s.rx) (hp : t.station.phase ≠ .config)
    (hl : t.station.phase ≠ .listen → t.station.listenTimer = none)
    (hs : t.station.phase ≠ .listen → t.station.phase ≠ .active → t.station.statusTimer = none) :
    t.refreshed.BlocksAgree where
  self := fun p => by
    show (t.peer p).state = .self ↔ p = t.station.ownId
    rw [ho, State.peer, hpeers]
    exact h.blocks.self p
  grades := fun n => by
    have hg := h.blocks.grades n
    simp only [State.condition, State.planOf, ← hcond, ← hplan] at hg
    exact hg
  classes := fun n => by
    have hc := h.blocks.classes n
    simp only [State.condition, ← hcond] at hc
    exact hc
  ranks := fun n => by
    have hr := h.blocks.ranks n
    simp only [State.planOf, ← hplan] at hr
    exact hr
  isolated := rfl
  receiving := by
    show t.rx.receiving = decide (t.station.phase ≠ .config)
    rw [hrx, h.blocks.receiving]
    simp [h.phase, hp]
  configTable := fun e => absurd e hp
  configPeers := fun e => absurd e hp
  listenTimer := hl
  statusTimer := hs

theorem refreshIsolated_running {s : State} {own : StationId} (j : Option StationId) (hb : s.refreshed.BlocksAgree)
    (ht : s.TableAgrees) (hp : s.station.phase ≠ .config) (ho : s.station.ownId = own) :
    (refreshIsolated j s).Running own := by
  have k := refreshIsolated_step j s
  have hst : (refreshIsolated j s).station = s.station := k.station
  have hagree : s.refreshed.TableAgrees := ⟨fun n => ht.entry n⟩
  refine ⟨⟨⟨fun n => k.agrees ?_ (hagree.entry n)⟩, k.blocks hb fun e => absurd e hp⟩, ?_, ?_⟩
  · exact entry_of_oc (s := s) (refreshIsolated_oc j s) n
  · rw [hst]
    exact hp
  · rw [hst]
    exact ho

/-- Entry to ACTIVE (R109). -/
theorem enterActive_running {s : State} {own : StationId} (hp : s.station.phase = .listen) (h : s.Running own) :
    (enterActive s).Running own := by
  have hna : s.station.phase ≠ .active := by simp [hp]
  unfold enterActive changePhase
  refine post_running _ _ _ _ _ (reportFlag_running _ ?_)
  have hr := refreshIsolated_running (own := own) none
    (s := setPhase .active (s.withStation { s.station with listenTimer := none }))
    (refreshed_of_phase h rfl rfl rfl rfl rfl (by simp) (fun _ => rfl) (by simp))
    ⟨fun n => EntryAgrees.of_inactive hna (s := s) rfl rfl (fun _ => rfl) (h.table.entry n)⟩ (by simp) h.ownId
  exact hr.ownerStep (evaluateAll_step _) (evaluateAll_agreement hr.phase hr.toAgreement).table

theorem listenRunsOut_agreement {s : State} (h : s.Agreement) : (listenRunsOut s).Agreement := by
  unfold listenRunsOut
  split
  · next hc => exact (enterActive_running hc.2 ⟨h, by simp [hc.2], rfl⟩).toAgreement
  · exact h

/-- The status period timer restarts (R108). -/
theorem statusRunsOut_agreement {s : State} (h : s.Agreement) : (statusRunsOut s).Agreement := by
  unfold statusRunsOut
  split
  · next hc =>
    have hr : (s.withStation { s.station with statusTimer := some Config.statusPeriod }).Agreement :=
      ⟨⟨fun n => h.table.entry n⟩,
        { h.blocks with statusTimer := fun h1 h2 => absurd hc.2 (by simp [not_or]; exact ⟨h1, h2⟩) }⟩
    exact hr.quiet (requestStatus_step _) (request_oc ..)
  · exact h

theorem barHold_of_setPhase {s : State} (h : s.TableAgrees) (p : Phase) (n : Service) :
    (stopTimers (setPhase p s)).AgreesBarHold n := (h.entry n).barHold

/-- A phase in which nothing may be held: the timers stop, every entry lets go, the Transmitter follows, and the flag is
refreshed (R111, R114). -/
theorem letGo_running {p : Phase} {s r : State} {own : StationId} (h : s.Running own) (hc : p ≠ .config)
    (k : OwnerStep (stopTimers (setPhase p s)) r) (ht : r.TableAgrees) (x : Transmitter) :
    (refreshIsolated none (r.withTx x)).Running own := by
  have hb := k.refreshed (refreshed_of_phase h rfl rfl rfl rfl rfl hc (fun _ => rfl) (fun _ _ => rfl)) hc
  have hst : (r.withTx x).station = (stopTimers (setPhase p s)).station := k.station
  refine refreshIsolated_running none (.congr (s := r.refreshed) rfl rfl rfl rfl rfl hb) ⟨fun n => ht.entry n⟩ ?_ ?_
  · rw [hst]
    exact hc
  · rw [hst]
    exact h.ownId

theorem leaveTransmitter_fields (xs : List ReleaseEntry) (s : State) :
    leaveTransmitter xs s = s.withTx (leaveTransmitter xs s).tx := by
  simp only [leaveTransmitter]
  rw [takeNext_fields]
  rfl

/-- LEAVE lets go of everything held and claimed (R111). -/
theorem leaveStation_running {s : State} {own : StationId} (h : s.Running own) : (leaveStation s).Running own := by
  have k := leaveEntries_step allSixteen (stopTimers (setPhase .leaving s))
  have ht := leaveEntries_agrees (barHold_of_setPhase h.table .leaving)
  unfold leaveStation changePhase leaveBlocks
  generalize leaveEntries allSixteen (stopTimers (setPhase .leaving s)) = r at k ht
  refine post_running _ _ _ _ _ ?_
  dsimp only
  rw [leaveTransmitter_fields]
  exact letGo_running h (by decide) k ht _

theorem muteTransmitter_fields (s : State) : muteTransmitter s = s.withTx (muteTransmitter s).tx := by
  unfold muteTransmitter
  split <;> rfl

/-- MUTED lets go of everything held and claimed (R114). -/
theorem muteStation_running (c : MuteCause) {s : State} {own : StationId} (h : s.Running own) :
    (muteStation c s).Running own := by
  have k := forEach_step muteEntry_step (stopTimers (setPhase .muted s))
  have ht := muteEntries_agrees (barHold_of_setPhase h.table .muted)
  unfold muteStation
  generalize forEach muteEntry (stopTimers (setPhase .muted s)) = r at k ht
  refine post_running _ _ _ _ _ ?_
  rw [muteTransmitter_fields]
  exact letGo_running h (by decide) k ht _

theorem requestMuted_running (c : MuteCause) {s : State} {own : StationId} (h : s.Running own) :
    (requestMuted c s).Running own := by
  unfold requestMuted
  split
  · exact muteStation_running c h
  · exact h

/-- The leave frames are done (R112). -/
theorem frameFinished_running {s : State} {own : StationId} (h : s.Running own) : (frameFinished s).Running own := by
  unfold frameFinished
  split
  · next hl =>
    have hna : s.station.phase ≠ .active := by simp [hl.1]
    refine post_running _ _ _ _ _ ?_
    refine ⟨⟨⟨fun n => EntryAgrees.of_inactive hna (s := s) rfl rfl (fun _ => rfl) (h.table.entry n)⟩, ?_⟩,
      by simp, h.ownId⟩
    exact
      { self := h.blocks.self
        grades := h.blocks.grades
        classes := h.blocks.classes
        ranks := h.blocks.ranks
        isolated := by
          rw [isolatedNow_of_not_active (by simp)]
          exact h.blocks.isolated.trans (isolatedNow_of_not_active hna)
        receiving := by
          rw [setPhase_rx, h.blocks.receiving, setPhase_phase]
          simp [h.phase]
        configTable := by simp
        configPeers := by simp
        listenTimer := fun _ => h.blocks.listenTimer (by simp [hl.1])
        statusTimer := fun _ _ => h.blocks.statusTimer (by simp [hl.1]) hna }
  · exact h

theorem resetEntry_agrees {s : State} {n : Service} {now : Word16} (h : s.entry n = resetEntry now) :
    s.EntryAgrees n := entryAgrees_of_vacant (by rw [h]; rfl) (by rw [h]; rfl) (by rw [h]; rfl)

@[simp] theorem resetOwnership_entry (now : Word16) (n : Service) :
    look (resetOwnership now).entries n = resetEntry now := look_uniform ..

theorem resetPeer_self (own p : StationId) : (resetPeer own p).state = .self ↔ p = own := by
  simp only [resetPeer]
  split
  · next h => simp [h]
  · next h => simp [h]

theorem resetPeer_config (own p : StationId) :
    ((resetPeer own p).state = .absent ∨ (resetPeer own p).state = .self) ∧ (resetPeer own p).silence = none := by
  simp only [resetPeer]
  split <;> simp

/-- RESTART brings every block back to CONFIG (R116). -/
theorem restartStation_agreement {s : State} (h : s.Agreement) : (restartStation s).Agreement := by
  refine post_agreement _ _ _ _ _ ⟨⟨fun n => resetEntry_agrees (resetOwnership_entry s.timebase n)⟩, ?_⟩
  exact
    { self := fun p => by
        simp only [State.peer, look_tabulate]
        exact resetPeer_self ..
      grades := fun n => by
        simp only [State.condition, look_tabulate]
        rfl
      classes := fun n => by
        simp only [State.condition, look_tabulate]
        rfl
      ranks := h.blocks.ranks
      isolated := (isolatedNow_of_not_active (by simp)).symm
      receiving := rfl
      configTable := fun _ n => by
        simp only [State.entry, resetOwnership_entry]
        exact ⟨rfl, rfl⟩
      configPeers := fun _ p => by
        simp only [State.peer, look_tabulate]
        exact resetPeer_config ..
      listenTimer := fun _ => rfl
      statusTimer := fun _ _ => rfl }

/-- Hard reset brings every block to agreement, whatever stood before (R117). -/
theorem resetBlocks_agreement (id : StationId) (low : Bool) (s : State) : (resetBlocks id low s).Agreement := by
  refine ⟨⟨fun n => resetEntry_agrees (resetOwnership_entry 0 n)⟩, ?_⟩
  exact
    { self := fun p => by
        simp only [resetBlocks, hardResetState, State.peer, look_tabulate]
        exact resetPeer_self ..
      grades := fun n => by
        simp only [resetBlocks, hardResetState, State.condition, State.planOf, look_tabulate, resetPlan, look_uniform]
        rfl
      classes := fun n => by
        simp only [resetBlocks, hardResetState, State.condition, look_tabulate]
        rfl
      ranks := fun n _ => by
        simp only [resetBlocks, hardResetState, State.planOf, resetPlan, look_uniform]
        rfl
      isolated := (isolatedNow_of_not_active (by simp [resetBlocks, hardResetState])).symm
      receiving := rfl
      configTable := fun _ n => by
        simp only [resetBlocks, hardResetState, State.entry, resetOwnership_entry]
        exact ⟨rfl, rfl⟩
      configPeers := fun _ p => by
        simp only [resetBlocks, hardResetState, State.peer, look_tabulate]
        exact resetPeer_config ..
      listenTimer := fun _ => rfl
      statusTimer := fun _ _ => rfl }

theorem hardReset_agreement (rst : RstLevel) (s : State) : (hardReset rst s).Agreement := by
  cases rst with
  | low => exact resetBlocks_agreement ..
  | high id => exact resetBlocks_agreement ..

end Sys2Proof.Machine

/-! The agreement of the tables kept by the Transmitter, the line, time and the host, and so by every step. -/

namespace Sys2Proof.Machine

/-! ## Counters of the Peer Monitor -/

/-- The agreement reads the peers' states, their silence timers and the isolated flag alone. -/
theorem withPeers_agreement {s : State} {x : PeerMonitor} (hs : ∀ p, (look x.entries p).state = (s.peer p).state)
    (hq : ∀ p, (look x.entries p).silence = (s.peer p).silence) (hi : x.isolated = s.peers.isolated)
    (h : s.Agreement) : (s.withPeers x).Agreement := by
  have hpeer : ∀ p, (s.withPeers x).peer p = look x.entries p := fun _ => rfl
  have hlive : ∀ p, (s.withPeers x).isLive p = s.isLive p := fun p => by simp only [State.isLive, hpeer, hs]
  refine ⟨⟨fun n => EntryAgrees.congr (s := s) (t := s.withPeers x) rfl rfl hlive id (h.table.entry n)⟩, ?_⟩
  exact
    { self := fun p => by rw [hpeer, hs]; exact h.blocks.self p
      grades := h.blocks.grades
      classes := h.blocks.classes
      ranks := h.blocks.ranks
      isolated := by
        rw [isolatedNow_congr (s := s) (t := s.withPeers x) rfl hlive]
        exact hi.trans h.blocks.isolated
      receiving := h.blocks.receiving
      configTable := h.blocks.configTable
      configPeers := fun e p => by
        rw [hpeer, hs, hq]
        exact h.blocks.configPeers e p
      listenTimer := h.blocks.listenTimer
      statusTimer := h.blocks.statusTimer }

/-! ## The Transmitter (R135 to R144) -/

section
variable {own : StationId} {s : State}

theorem takeNext_running (h : s.Running own) : (takeNext s).Running own := h.quiet (takeNext_step s) (takeNext_oc s)

theorem finishFrame_running (h : s.Running own) : (finishFrame s).Running own :=
  takeNext_running (withTx_running _ (frameFinished_running (withTx_running _ h)))

theorem claimSentClean_running (h : s.Running own) (n : Service) (e : Epoch) : (claimSentClean n e s).Running own :=
  h.entryStep (claimSentClean_entryStep n e s) (claimSentClean_agrees h.grades (h.table.entry n) e)

theorem claimGivenUp_running (h : s.Running own) (n : Service) (e : Epoch) : (claimGivenUp n e s).Running own :=
  h.entryStep (claimGivenUp_entryStep n e s) (claimGivenUp_agrees h.grades (h.table.entry n) e)

theorem giveUp_running (h : s.Running own) (f : Flight) : (giveUp f s).Running own := by
  have h1 := withTx_running { s.tx with giveUps := satInc s.tx.giveUps } h
  simp only [giveUp]
  split
  · exact finishFrame_running (claimGivenUp_running (post_running _ _ _ _ _ h1) ..)
  · exact finishFrame_running (post_running _ _ _ _ _ h1)
  · exact finishFrame_running (post_running _ _ _ _ _ h1)
  · exact finishFrame_running (post_running _ _ _ _ _ h1)

theorem endClean_running (h : s.Running own) (f : Flight) : (endClean f s).Running own := by
  have h1 := withTx_running { s.tx with framesSent := satInc s.tx.framesSent, deafCount := 0 } h
  simp only [endClean]
  split
  · exact withTx_running _ h1
  · split
    · exact finishFrame_running (claimSentClean_running h1 ..)
    · exact finishFrame_running h1
    · exact finishFrame_running h1
    · exact finishFrame_running h1

theorem endCollided_running (h : s.Running own) (f : Flight) : (endCollided f s).Running own := by
  have h1 := withTx_running { s.tx with collisions := satInc s.tx.collisions, deafCount := 0 } h
  simp only [endCollided]
  split
  · exact withTx_running _ h1
  · split
    · exact withTx_running _ h1
    · exact giveUp_running h1 f

theorem endDeaf_running (h : s.Running own) (f : Flight) : (endDeaf f s).Running own := by
  simp only [endDeaf]
  split
  · exact withTx_running _ (withTx_running _ h)
  · split
    · exact requestMuted_running _ (withTx_running _ (withTx_running _ h))
    · split
      · exact withTx_running _ (withTx_running _ h)
      · exact giveUp_running (withTx_running _ h) f

theorem idClash_running (h : s.Running own) : (idClash s).Running own := by
  have h1 : (s.withPeers { s.peers with clashCount := satInc s.peers.clashCount }).Running own :=
    ⟨withPeers_agreement (fun _ => rfl) (fun _ => rfl) rfl h.toAgreement, h.phase, h.ownId⟩
  exact requestMuted_running _ (post_running _ _ _ _ _ h1)

end

theorem attemptStart_agreement {s : State} (h : s.Agreement) : (attemptStart s).Agreement := by
  unfold attemptStart
  split
  · next hc =>
    have hp : s.station.phase ≠ .config := fun e => by
      rw [e] at hc
      exact absurd hc.2.1 (by decide)
    have hr : s.Running s.station.ownId := ⟨h, hp, rfl⟩
    split
    · split
      · exact withTx_agreement _ h
      · exact (finishFrame_running hr).toAgreement
    · exact h
  · exact h

/-- A station that drives an attempt has left CONFIG (R131, R144). -/
theorem running_of_driven {s : State} {f : Flight} (h : s.Agreement) (ht : s.TxConsistent)
    (hf : s.drivenFlight = some f) : s.Running s.station.ownId := by
  refine ⟨h, fun hc => ?_, rfl⟩
  have hd := (State.drivenFlight_some hf).1
  have hs := ht.toTxCore.driving_sends hd (by simp [hc])
  rw [hc] at hs
  cases hs

theorem attemptClean_agreement {s : State} (h : s.Agreement) (ht : s.TxConsistent) : (attemptClean s).Agreement := by
  unfold attemptClean
  split
  · next f hf =>
    have hr := withRx_running (x := s.rx.afterOwnFrame f.driven) rfl (running_of_driven h ht hf)
    exact (endClean_running hr f).toAgreement
  · exact h

theorem attemptDeaf_agreement {s : State} (h : s.Agreement) (ht : s.TxConsistent) : (attemptDeaf s).Agreement := by
  unfold attemptDeaf
  split
  · next f hf => exact (endDeaf_running (running_of_driven h ht hf) f).toAgreement
  · exact h

/-! ## The line (R120 to R127, R137) -/

@[simp] theorem sense_receiving (r : Receiver) (b : Symbol) : (r.sense b).receiving = r.receiving := by
  cases b <;> rfl

@[simp] theorem append_receiving (r : Receiver) (b : Bool) : (r.append b).receiving = r.receiving := by
  unfold Receiver.append
  split <;> rfl

@[simp] theorem codeErrorFound_receiving (r : Receiver) : r.codeErrorFound.receiving = r.receiving := rfl

@[simp] theorem leaveFrame_receiving (r : Receiver) : r.leaveFrame.receiving = r.receiving := rfl

theorem readInFrame_receiving (r after : Receiver) (b : Symbol) :
    (r.readInFrame after b).1.receiving = after.receiving := by
  unfold Receiver.readInFrame
  split
  · split <;> simp
  · split
    · simp
    · split
      · simp
      · split <;> simp

theorem read_receiving (r : Receiver) (b : Symbol) : (r.read b).1.receiving = r.receiving := by
  simp only [Receiver.read]
  split
  · split <;> simp
  · simp
  · simp
  · simp
  · simp
  · split <;> simp
  · rw [readInFrame_receiving, sense_receiving]

/-- What every bit time keeps of the receiver a line keeps. -/
theorem run_keeps {P : Receiver → Prop} (hread : ∀ r b, P r → P (r.read b).1) {r r' : Receiver} {line : List Symbol}
    {ev : LineEvent} (h : r.run line = some (r', ev)) (hr : P r) : P r' := by
  induction line generalizing r with
  | nil =>
    simp only [Receiver.run, Option.some.injEq, Prod.mk.injEq] at h
    exact h.1 ▸ hr
  | cons b bs ih =>
    have hb := hread r b hr
    cases bs with
    | nil =>
      simp only [Receiver.run, Option.some.injEq] at h
      rwa [h] at hb
    | cons c cs =>
      simp only [Receiver.run] at h
      split at h
      · next heq =>
        rw [heq] at hb
        exact ih h hb
      · next heq =>
        rw [heq] at hb
        exact ih h hb
      · cases h
      · cases h

/-- What every bit time keeps of the receiver the judgement of an attempt keeps. -/
theorem judgeAttempt_keeps {P : Receiver → Prop} (hread : ∀ r b, P r → P (r.read b).1) {content : List Bool} {n : Nat}
    {seen missed : Bool} {r r' : Receiver} {ds bs rest : List Symbol} {o : AttemptOutcome} {ev : LineEvent}
    (h : judgeAttempt content n seen missed r ds bs = some (o, r', ev, rest)) (hr : P r) : P r' := by
  induction bs generalizing n seen missed r ds with
  | nil => simp [judgeAttempt] at h
  | cons b bs ih =>
    have hb := hread r b hr
    simp only [judgeAttempt] at h
    split at h
    · simp only [Option.some.injEq, Prod.mk.injEq] at h
      exact h.2.1 ▸ hb
    · split at h
      · simp only [Option.some.injEq, Prod.mk.injEq] at h
        exact h.2.1 ▸ hb
      · split at h
        · simp only [Option.some.injEq, Prod.mk.injEq] at h
          exact h.2.1 ▸ hb
        · exact ih h hb
        · exact ih h hb
        · exact ih h hb

theorem run_receiving {r r' : Receiver} {line : List Symbol} {ev : LineEvent} (h : r.run line = some (r', ev)) :
    r'.receiving = r.receiving :=
  run_keeps (P := fun x => x.receiving = r.receiving) (fun x b hx => (read_receiving x b).trans hx) h rfl

theorem judgeAttempt_receiving {content : List Bool} {n : Nat} {seen missed : Bool} {r r' : Receiver}
    {ds bs rest : List Symbol} {o : AttemptOutcome} {ev : LineEvent}
    (h : judgeAttempt content n seen missed r ds bs = some (o, r', ev, rest)) : r'.receiving = r.receiving :=
  judgeAttempt_keeps (P := fun x => x.receiving = r.receiving) (fun x b hx => (read_receiving x b).trans hx) h rfl

@[simp] theorem count_receiving (r : Receiver) (o : FrameOutcome) : (r.count o).receiving = r.receiving := by
  cases o <;> rfl

theorem passBits_fields (k : Nat) (s : State) : passBits k s = s.withTx (passBits k s).tx := by
  unfold passBits
  split <;> rfl

theorem passBits_agreement (k : Nat) {s : State} (h : s.Agreement) : (passBits k s).Agreement := by
  rw [passBits_fields]
  exact withTx_agreement _ h

theorem routeFrame_running {s : State} {own : StationId} (h : s.Running own) (f : Frame) :
    (routeFrame f s).Running own := by
  unfold routeFrame
  split
  · split
    · exact h
    · exact idClash_running h
  · next hne => exact takeFrame_running h (h.ownId ▸ hne)

theorem frameEnds_running {s : State} {own : StationId} {r : Receiver} (h : s.Running own)
    (hr : r.receiving = s.rx.receiving) (c : List Bool) (past : Bool) : (frameEnds c past r s).Running own := by
  have h1 : (s.withRx (r.count (judgeFrame c past))).Running own := withRx_running (by simp [hr]) h
  simp only [frameEnds]
  split
  · exact routeFrame_running h1 _
  · exact h1
  · exact h1

theorem collidedWith_running {s : State} {own : StationId} {r : Receiver} (h : s.Running own)
    (hr : r.receiving = s.rx.receiving) (f : Flight) (ev : LineEvent) : (collidedWith f r ev s).Running own := by
  have hend := fun x (hx : Receiver.receiving x = s.rx.receiving) => endCollided_running (withRx_running hx h) f
  unfold collidedWith
  split
  · next c past =>
    have h1 := hend (r.count (judgeFrame c past)) (by simp [hr])
    dsimp only
    split
    · split
      · exact h1
      · next hne => exact takeFrame_running h1 (h.ownId ▸ hne)
    · exact h1
    · exact h1
  · exact hend r hr
  · exact hend r hr
  · exact hend r hr

theorem attemptCollided_agreement (line : List Symbol) {s : State} (h : s.Agreement) (ht : s.TxConsistent) :
    (attemptCollided line s).Agreement := by
  unfold attemptCollided
  split
  · next f hf =>
    split
    · next hj =>
      exact (collidedWith_running (running_of_driven h ht hf) (judgeAttempt_receiving hj) ..).toAgreement
    · exact h
  · exact h

/-- A station that receives has left CONFIG (R129). -/
theorem running_of_receiving {s : State} (h : s.Agreement) (hr : s.rx.receiving = true) :
    s.Running s.station.ownId :=
  ⟨h, by rw [h.blocks.receiving] at hr; simpa using hr, rfl⟩

theorem frameReceived_agreement (line : List Symbol) {s : State} (h : s.Agreement) (ht : s.TxConsistent) :
    (frameReceived line s).Agreement := by
  unfold frameReceived
  split
  · exact h
  · next hrx =>
    have hrun := running_of_receiving h (by simpa using hrx)
    split
    · next f hf =>
      split
      · exact attemptClean_agreement h ht
      · next hj => exact (collidedWith_running hrun (judgeAttempt_receiving hj) ..).toAgreement
      · exact h
    · split
      · next r c past hr =>
        have hp : (passBits line.length s).Running s.station.ownId := by
          rw [passBits_fields]
          exact withTx_running _ hrun
        refine (frameEnds_running hp ?_ c past).toAgreement
        rw [run_receiving hr, passBits_fields]
        rfl
      · exact h

/-- Bit times pass and the receiver reads on. -/
theorem passBits_withRx_agreement (k : Nat) {r : Receiver} {s : State} (hr : r.receiving = s.rx.receiving)
    (h : s.Agreement) : ({ passBits k s with rx := r } : State).Agreement := by
  refine withRx_agreement (s := passBits k s) ?_ (passBits_agreement k h)
  rw [hr, passBits_fields]
  rfl

theorem codeError_agreement (line : List Symbol) {s : State} (h : s.Agreement) : (codeError line s).Agreement := by
  unfold codeError
  split
  · exact h
  · next hrx =>
    split
    · split
      · next hj =>
        exact (collidedWith_running (running_of_receiving h (by simpa using hrx)) (judgeAttempt_receiving hj)
          ..).toAgreement
      · exact h
    · split
      · next hr => exact passBits_withRx_agreement _ (run_receiving hr) h
      · exact h

theorem lineIdle_agreement (line : List Symbol) {s : State} (h : s.Agreement) : (lineIdle line s).Agreement := by
  unfold lineIdle
  split
  · exact h
  · split
    · next hr => exact passBits_withRx_agreement _ (run_receiving hr) h
    · exact h

theorem backOffEnd_agreement (line : List Symbol) {s : State} (h : s.Agreement) : (backOffEnd line s).Agreement := by
  unfold backOffEnd
  split
  · split
    · next hr => exact withTx_agreement _ (withRx_agreement (run_receiving hr) h)
    · next hr => exact withTx_agreement _ (withRx_agreement (run_receiving hr) h)
    · exact h
  · exact h

/-! ## Time (R1) -/

theorem tickDown_eq_none {t : Option Nat} : tickDown t = none ↔ t = none := Option.map_eq_none_iff

theorem tick_isLive (s : State) (p : StationId) : (tick s).isLive p = s.isLive p := by
  have hs : ((tick s).peer p).state = (s.peer p).state := by
    rw [tick_peer]
    split <;> rfl
  simp only [State.isLive, hs]

/-- A tick keeps what agreement reads of an entry: of a record it moves the window alone. -/
theorem ServiceEntry.Agrees.tick {own : StationId} {live : StationId → Bool} {may : Prop} {e : ServiceEntry}
    (h : e.Agrees own live may) : e.tick.Agrees own live may := by
  cases hr : e.record with
  | none => exact ServiceEntry.Agrees.of_fields (e := e) (e' := e.tick) rfl rfl (by simp [ServiceEntry.tick, hr]) h
  | some r =>
    have hrec : e.tick.record = some r.tick := by simp [ServiceEntry.tick, hr]
    have hwindow : r.tick.window = none ↔ r.window = none := tickDown_eq_none
    obtain ⟨ho, hf, hcase⟩ := h.of_record hr
    rcases hcase with ⟨hs, hown, hm, ht⟩ | ⟨hs, hne, hl, ht⟩
    · refine .claiming ho hm hs hrec hown hf ?_
      unfold ClaimRecord.OwnTimes at ht ⊢
      rwa [ne_eq, hwindow]
    · refine .watching ho hs hrec hne hl hf ?_
      unfold ClaimRecord.WatchedTimes at ht ⊢
      rwa [ne_eq, hwindow]

theorem tick_agreement {s : State} (h : s.Agreement) : (tick s).Agreement := by
  have hcond : ∀ n, ((tick s).condition n).grade = (s.condition n).grade ∧
      ((tick s).condition n).cls = (s.condition n).cls ∧
      ((tick s).condition n).debounced = (s.condition n).debounced ∧
      ((tick s).condition n).request = (s.condition n).request := by
    intro n
    rw [tick_condition]
    split <;> exact ⟨rfl, rfl, rfl, rfl⟩
  have hmay : ∀ n, (tick s).MayHold n = s.MayHold n := fun n => by
    unfold State.MayHold
    rw [(hcond n).2.2.2]
    rfl
  refine ⟨⟨fun n => ?_⟩, ?_⟩
  · unfold State.EntryAgrees
    rw [tick_entry, hmay, funext (tick_isLive s)]
    exact ServiceEntry.Agrees.tick (h.table.entry n)
  · exact
      { self := fun p => by
          rw [tick_peer]
          split
          · exact h.blocks.self p
          · exact h.blocks.self p
        grades := fun n => by
          rw [(hcond n).1, (hcond n).2.2.1, (hcond n).2.2.2]
          exact h.blocks.grades n
        classes := fun n => by
          rw [(hcond n).2.1, (hcond n).2.2.2]
          exact h.blocks.classes n
        ranks := h.blocks.ranks
        isolated := by
          rw [tick_isolated, h.blocks.isolated]
          simp only [State.isolatedNow, tick_isLive]
          rfl
        receiving := h.blocks.receiving
        configTable := fun hp n => by
          rw [tick_entry]
          exact h.blocks.configTable hp n
        configPeers := fun hp p => by
          rw [tick_peer, if_pos (show s.station.phase = .config from hp)]
          exact h.blocks.configPeers hp p
        listenTimer := fun hp => tickDown_eq_none.2 (h.blocks.listenTimer hp)
        statusTimer := fun h1 h2 => tickDown_eq_none.2 (h.blocks.statusTimer h1 h2) }

theorem timebaseTick_agreement {s : State} (h : s.Agreement) : (timebaseTick s).Agreement := by
  unfold timebaseTick
  split
  · exact h
  · exact tick_agreement h

/-! ## The host (R147 to R156) -/

/-- A property that the Host Port does not bear on, and that plan writes and commands keep: every data byte keeps it. -/
structure HostKept (P : State → Prop) : Prop where
  host : ∀ (x : HostPort) {s : State}, P s → P (s.withHost x)
  freed : ∀ (x : HostPort) (k : Nat) {s : State}, P s → P { s with host := x, freeCount := k }
  plan : ∀ (f : PlanField) (v : Byte) {s : State}, P s → P (writePlanField f v s)
  command : ∀ (c : Command) {s : State}, P s → P (runCommand c s)

namespace HostKept
variable {P : State → Prop} (k : HostKept P) {s : State}
include k

theorem setResult (r : CommandResult) (h : P s) : P (setResult r s) := k.host _ h

theorem moveAddress (a : HostAddress) (h : P s) : P (moveAddress a s) := by
  unfold Machine.moveAddress
  split
  · exact k.host _ h
  · exact h
  · exact h

theorem popEvent (h : P s) : P (popEvent s) := by
  unfold Machine.popEvent
  split
  · exact k.freed _ _ h
  · split
    · exact k.host _ h
    · exact k.host _ h

theorem fetchByte (a : HostAddress) (h : P s) : P (fetchByte a s) := by
  unfold Machine.fetchByte
  split
  · exact k.moveAddress _ (k.host _ (k.popEvent h))
  · exact k.moveAddress _ (k.host _ h)

/-- A byte clocked at an address, where the action of a write keeps the property (R147). -/
theorem dataByte (a : HostAddress) {take : State → State} (hw : P s → P (take s)) (h : P s) :
    P (dataByte a take s) := by
  unfold Machine.dataByte
  split
  · split
    · exact k.moveAddress _ (hw h)
    · exact h
  · split
    · exact k.fetchByte _ h
    · exact h
  · exact h
  · exact h

theorem writeCode (v : Byte) (h : P s) : P (writeCode v s) := by
  unfold Machine.writeCode
  split
  · exact k.command _ (k.host _ h)
  · exact k.setResult _ (k.host _ h)

theorem takeCommand (c : Command) (h : P s) : P (takeCommand c s) :=
  k.dataByte _ (fun h => k.command c (k.host _ h)) h

theorem writePlanSelect (v : Byte) (h : P s) : P (writePlanSelect v s) := by
  unfold Machine.writePlanSelect
  split
  · exact k.setResult _ (k.host _ h)
  · exact k.setResult _ h

theorem selectService (v : Byte) (h : P s) : P (selectService v s) := by
  unfold Machine.selectService
  split
  · exact k.setResult _ (k.host _ h)
  · exact k.setResult _ h

theorem selectPeer (v : Byte) (h : P s) : P (selectPeer v s) := by
  unfold Machine.selectPeer
  split
  · exact k.setResult _ (k.host _ h)
  · exact k.setResult _ h

theorem selectCounter (v : Byte) (h : P s) : P (selectCounter v s) := by
  unfold Machine.selectCounter
  split
  · exact k.setResult _ (k.host _ h)
  · exact k.setResult _ h

theorem writeIrqControl (r : IrqRegister) (v : Byte) (h : P s) : P (writeIrqControl r v s) := by
  cases r with
  | enable => exact k.host _ h
  | classMask => exact k.host _ h

theorem writeByte (a : BitVec 7) (v : Byte) (h : P s) : P (writeByte a v s) := by
  unfold Machine.writeByte
  split
  · exact k.host _ h
  · exact k.writeCode v h
  · exact k.writeIrqControl _ v h
  · exact k.writeIrqControl _ v h
  · exact k.writePlanSelect v h
  · exact k.plan _ v h
  · exact k.plan _ v h
  · exact k.plan _ v h
  · exact k.plan _ v h
  · exact k.plan _ v h
  · exact k.plan _ v h
  · exact k.selectService v h
  · exact k.selectCounter v h
  · exact k.selectPeer v h
  · exact h

theorem writeAddress (a : HostAddress) (v : Byte) (h : P s) : P (writeAddress a v s) := by
  unfold Machine.writeAddress
  split
  · exact k.writeByte _ v h
  · exact h

theorem beginTransaction (h : P s) : P (beginTransaction s) := by
  unfold Machine.beginTransaction
  split
  · split
    · exact h
    · exact k.host _ h
  · exact h
  · exact h

theorem takeAddress (v : Byte) (h : P s) : P (takeAddress v s) := by
  unfold Machine.takeAddress
  split
  · exact k.host _ h
  · exact h
  · exact h

/-- Every command that is a data byte keeps the property (R147). -/
theorem exec_data {i : Instr} {a : HostAddress} {t : State} (hi : hostAddress i = some a) (h : P s)
    (he : exec i s = .next t) : P t := by
  cases i <;> cases he
  case start => exact k.takeCommand .start h
  case leave => exact k.takeCommand .leave h
  case restart => exact k.takeCommand .restart h
  case force => exact k.takeCommand .force h
  case lockout => exact k.takeCommand .lockout h
  case clear => exact k.takeCommand .clear h
  case clearCounters => exact k.takeCommand .clearCounters h
  case unknownCommandCode code => exact k.dataByte _ (k.writeCode code) h
  case planSelectWrite v => exact k.dataByte _ (k.writePlanSelect v) h
  case planFieldWrite f v => exact k.dataByte _ (k.plan f v) h
  case serviceSnapshotSelect v => exact k.dataByte _ (k.selectService v) h
  case peerSnapshotSelect v => exact k.dataByte _ (k.selectPeer v) h
  case counterSnapshotSelect v => exact k.dataByte _ (k.selectCounter v) h
  case irqControlWrite r v => exact k.dataByte _ (k.writeIrqControl r v) h
  case eventPop => exact k.dataByte _ id h
  case registerWrite a v => exact k.dataByte _ (k.writeAddress a v) h
  all_goals cases hi

end HostKept

theorem withField_records_ne {n m : Service} (p : Plan) (f : PlanField) (v : Byte) (h : m ≠ n) :
    look (p.withField n f v).records m = look p.records m := by
  cases f <;> simp [Plan.withField, look_place_ne _ _ h]

/-- An accepted byte leaves an undefined service without a rank (R149). -/
theorem withField_rank {n : Service} {p : Plan} {f : PlanField} {v : Byte}
    (hr : planRefuses (look p.records n) f v = false)
    (h : (look p.records n).defined = false → (look p.records n).rank = 0)
    (hd : (look (p.withField n f v).records n).defined = false) : (look (p.withField n f v).records n).rank = 0 := by
  cases f with
  | flags =>
    simp only [Plan.withField, look_place_same, PlanRecord.withFlags] at hd ⊢
    rw [hd]
    rfl
  | wtr =>
    simp only [Plan.withField, look_place_same] at hd ⊢
    exact h hd
  | rank =>
    simp only [Plan.withField, look_place_same] at hd ⊢
    have hv : v = 0 := by
      by_contra hv
      simp only [planRefuses, hd, decide_eq_false_iff_not] at hr
      exact hr (.inr ⟨hv, trivial⟩)
    subst hv
    rfl
  | holdOff =>
    simp only [Plan.withField, look_place_same] at hd ⊢
    exact h hd
  | version => exact h hd
  | expectedPeers => exact h hd

/-- A plan byte is accepted in CONFIG alone, and its service's grade is formed anew (R85, R149). -/
theorem writePlanField_agreement (f : PlanField) (v : Byte) {s : State} (h : s.Agreement) :
    (writePlanField f v s).Agreement := by
  simp only [writePlanField]
  split
  · exact setResult_agreement _ h
  · next hc =>
    have hp : s.station.phase = .config := by simpa using hc
    have hna : s.station.phase ≠ .active := by simp [hp]
    split
    · exact setResult_agreement _ h
    · next hr =>
      refine ⟨⟨fun n => EntryAgrees.of_inactive hna (s := s) rfl rfl (fun _ => rfl) (h.table.entry n)⟩, ?_⟩
      exact
        { self := h.blocks.self
          grades := fun n => by
            simp only [reform]
            rw [putCondition_condition]
            split
            · next hn => subst hn; rfl
            · next hn =>
              have hplan := withField_records_ne s.station.plan f v hn
              have hg := h.blocks.grades n
              simp only [State.planOf, ← hplan] at hg
              exact hg
          classes := fun n => by
            simp only [reform]
            rw [putCondition_condition]
            split
            · rfl
            · exact h.blocks.classes n
          ranks := fun n => by
            show (look (s.station.plan.withField s.host.planSelect f v).records n).defined = false → _
            by_cases hn : n = s.host.planSelect
            · subst hn
              exact withField_rank (by simpa [State.planOf] using hr) (h.blocks.ranks _)
            · have hplan := withField_records_ne s.station.plan f v hn
              have hk := h.blocks.ranks n
              simp only [State.planOf, ← hplan] at hk
              exact hk
          isolated := by
            rw [isolatedNow_of_not_active (by simpa [reform] using hna)]
            exact h.blocks.isolated.trans (isolatedNow_of_not_active hna)
          receiving := h.blocks.receiving
          configTable := h.blocks.configTable
          configPeers := h.blocks.configPeers
          listenTimer := h.blocks.listenTimer
          statusTimer := h.blocks.statusTimer }

/-- CLEAR_COUNTERS leaves the peers' states as they are (R100). -/
theorem clearCounters_agreement {s : State} (h : s.Agreement) : (clearCounters s).Agreement :=
  setResult_agreement _ <| withPeers_agreement (fun p => by rw [look_tabulate]; rfl)
    (fun p => by rw [look_tabulate]; rfl) rfl (withTx_agreement _ (withRx_agreement rfl h))

theorem runCommand_agreement (c : Command) {s : State} (h : s.Agreement) : (runCommand c s).Agreement := by
  cases c with
  | start =>
    simp only [runCommand, commandStart]
    split
    · next hp => exact setResult_agreement _ (startStation_agreement hp h)
    · exact setResult_agreement _ h
  | leave =>
    simp only [runCommand, commandLeave]
    split
    · next hp =>
      have hc : s.station.phase ≠ .config := by rcases hp with e | e <;> simp [e]
      exact setResult_agreement _ (leaveStation_running ⟨h, hc, rfl⟩).toAgreement
    · exact setResult_agreement _ h
  | restart => exact setResult_agreement _ (restartStation_agreement h)
  | force => exact operatorRequest_agreement _ _ h
  | lockout => exact operatorRequest_agreement _ _ h
  | clear => exact operatorRequest_agreement _ _ h
  | clearCounters => exact clearCounters_agreement h

/-- The agreement does not depend on the Host Port. -/
theorem agreement_hostKept : HostKept State.Agreement :=
  ⟨fun x _ => withHost_agreement x, fun _ _ _ h => h.elsewhere rfl rfl rfl rfl rfl,
    fun f v _ => writePlanField_agreement f v, fun c _ => runCommand_agreement c⟩

/-! ## Every command -/

/-- Every command that is no data byte keeps the agreement. -/
theorem exec_away_agreement {i : Instr} {s t : State} (ha : hostAddress i = none) (h : s.Agreement)
    (ht : s.TxConsistent) (he : exec i s = .next t) : t.Agreement := by
  cases i
  case irqControlWrite r v => cases r <;> cases ha
  all_goals cases ha <;> cases he
  case hardReset rst => exact hardReset_agreement rst s
  case timebaseTick => exact timebaseTick_agreement h
  case rawConditionChange n sf sd => exact setPins_agreement n sf sd h
  case conditionTimerRunsOut n => exact conditionRunsOut_agreement n h
  case wtrTimerRunsOut n => exact wtrRunsOut_agreement n h
  case retryHoldRunsOut n => exact retryRunsOut_agreement n h
  case claimWindowEnd n => exact windowRunsOut_agreement n h
  case silenceTimerRunsOut p => exact peerTimerRunsOut_agreement p h
  case listenTimerRunsOut => exact listenRunsOut_agreement h
  case statusPeriodTimerRunsOut => exact statusRunsOut_agreement h
  case frameReceived line => exact frameReceived_agreement line h ht
  case codeError line => exact codeError_agreement line h
  case attemptStart => exact attemptStart_agreement h
  case attemptClean => exact attemptClean_agreement h ht
  case attemptCollided line => exact attemptCollided_agreement line h ht
  case attemptDeaf => exact attemptDeaf_agreement h ht
  case backOffEnd line => exact backOffEnd_agreement line h
  case lineIdle line => exact lineIdle_agreement line h
  case transactionBegin => exact agreement_hostKept.beginTransaction h
  case addressByte v => exact agreement_hostKept.takeAddress v h
  case transactionEnd => exact withHost_agreement _ h

theorem exec_agreement {i : Instr} {s t : State} (h : s.Agreement) (ht : s.TxConsistent) (he : exec i s = .next t) :
    t.Agreement := by
  cases ha : hostAddress i with
  | some a => exact agreement_hostKept.exec_data ha h he
  | none => exact exec_away_agreement ha h ht he

/-- What every command keeps, from states that `good` describes and that the queue of waiting commands does not bear on,
every step keeps. -/
theorem step_of_exec {good post : State → Prop} (hpend : ∀ s cs, good s → good (s.withPending cs))
    (hidle : ∀ s, good s → post s) (hexec : ∀ i s t, good s → exec i s = .next t → post t) {s t : State}
    (h : good s) (he : step s = .next t) : post t := by
  unfold step at he
  split at he
  · cases he
    exact hidle s h
  · exact hexec _ _ t (hpend s _ h) he

theorem withPending_agreement (cs : List Instr) {s : State} (h : s.Agreement) : (s.withPending cs).Agreement :=
  h.elsewhere rfl rfl rfl rfl rfl

/-- Settles O5: each command keeps the agreement, an entry's by what its one operation does to it, and a CONFIG station
drives no attempt by its consistent Transmitter. -/
theorem stepKeepsTables : Obligations.StepKeepsTables := by
  intro s t htable hblocks htx he
  have h : t.Agreement := step_of_exec (good := fun s => s.Agreement ∧ s.TxConsistent)
    (fun s cs h =>
      ⟨withPending_agreement cs h.1, (TxStep.away (s := s) (t := s.withPending cs) rfl rfl).consistent h.2⟩)
    (fun _ h => h.1) (fun _ _ _ h => exec_agreement h.1 h.2) ⟨⟨⟨htable⟩, hblocks⟩, htx⟩ he
  exact ⟨h.table.entry, h.blocks⟩

end Sys2Proof.Machine

/-! Orders and resets (R9, R12, R13, R116, R117), with what a posted event does while the Event Queue has room. -/

namespace Sys2Proof.Machine

/-! ## Events while they can be recorded (R153) -/

theorem ClassMask.passes_all (k : EventKind) :
    ClassMask.passes { service := true, condition := true, peer := true, station := true } k = true := by
  cases k <;> rfl

section
variable {s : State} {k : Nat} (kind : EventKind) (n : Option Service) (p : Option StationId) (e : Option Epoch)
  (d : Option Detail)

/-- A posted event that finds its class on and room is the last of the queue. -/
theorem State.CanRecord.post_host (h : s.CanRecord (k + 1)) :
    (post kind n p e d s).host =
      HostPort.refreshIrq { s.host with events := s.host.events ++ [s.event kind n p e d] } := by
  obtain ⟨hm, hr⟩ := h
  have hroom : s.host.events.length < Config.eventRoom := by
    show s.host.events.length < 32
    omega
  have hp : s.host.mask.passes kind = true := by rw [hm]; exact ClassMask.passes_all kind
  simp only [post, withHost_host, HostPort.post, hp, State.event]
  rw [if_neg (by simp), if_pos hroom]

theorem State.CanRecord.post_events (h : s.CanRecord (k + 1)) :
    (post kind n p e d s).host.events = s.host.events ++ [s.event kind n p e d] := by
  rw [h.post_host]
  rfl

theorem State.CanRecord.post (h : s.CanRecord (k + 1)) : (post kind n p e d s).CanRecord k := by
  unfold State.CanRecord
  rw [h.post_host]
  refine ⟨h.1, ?_⟩
  simp only [HostPort.refreshIrq, List.length_append, List.length_singleton]
  have := h.2
  omega

end

/-! ## Reset (R117) -/

theorem hardResetState_pins (id : StationId) {pins pins' : Table (Bool × Bool)}
    (h : ∀ n, look pins n = look pins' n) : hardResetState id pins = hardResetState id pins' := by
  simp only [hardResetState, h]

/-- The state after reset is what hard reset makes of it. -/
theorem resetBlocks_reset : resetBlocks 0 false State.reset = State.reset := by
  have h := hardResetState_pins 0
    (pins := tabulate fun n => ((State.reset.condition n).sf, (State.reset.condition n).sd))
    (pins' := uniform (false, false)) fun n => by
      simp only [look_tabulate, look_uniform, State.condition, State.reset, hardResetState, resetCondition]
  simp only [resetBlocks, h]
  rfl

/-- Settles O2: the state after reset is what hard reset makes of it, and hard reset brings every part of the
invariant. -/
theorem resetIsConsistent : Obligations.ResetIsConsistent := by
  have hag : State.reset.Agreement := resetBlocks_reset ▸ resetBlocks_agreement 0 false State.reset
  have htx : State.reset.TxConsistent := resetBlocks_reset ▸ resetBlocks_tx 0 false State.reset
  exact
    { rst := fun h => Bool.noConfusion h
      drives := resetOwnership_drives 0
      host := resetHostPort_sound
      table := hag.table.entry
      blocks := hag.blocks
      tx := htx }

/-! ## Epochs (R9) -/

theorem toNat_sub_epoch (a b : Epoch) : (a - b).toNat = (a.toNat + 256 - b.toNat) % 256 := by
  have := b.isLt
  rw [BitVec.toNat_sub]
  congr 1
  omega

theorem epoch_eq_iff (a b : Epoch) : a = b ↔ (a.toNat + 256 - b.toNat) % 256 = 0 := by
  have ha := a.isLt
  have hb := b.isLt
  rw [← BitVec.toNat_inj]
  omega

/-- Settles O7: the three cases of R9 by the difference of the epochs mod 256. -/
theorem epochComparison : Obligations.EpochComparison := by
  refine ⟨fun a b => ?_, fun a => ⟨rfl, rfl⟩, rfl⟩
  have hlt : (a.toNat + 256 - b.toNat) % 256 < 256 := Nat.mod_lt _ (by decide)
  simp only [compareEpochs, epoch_eq_iff a b, toNat_sub_epoch]
  generalize (a.toNat + 256 - b.toNat) % 256 = d at hlt
  split
  · next h => simp [h]
  · next h =>
    split
    · next hd =>
      have h1 : 1 ≤ d := Nat.pos_of_ne_zero h
      simp [h, h1, hd, Nat.lt_succ_of_le hd]
    · next hd =>
      have h1 : 128 ≤ d := Nat.lt_of_not_le hd
      simp [h, hd, h1]

/-! ## Candidates (R12, R13) -/

theorem Grade.better_iff (g h : Grade) : g.better h = true ↔
    (g = .ok ∧ h ≠ .ok) ∨ (g = .deg ∧ (h = .fail ∨ h = .unav)) ∨ (g = .fail ∧ h = .unav) := by
  cases g <;> cases h <;> decide

theorem Grade.better_irrefl (g : Grade) : g.better g = false := by cases g <;> rfl

/-- Of two grades that differ exactly one is better. -/
theorem Grade.better_swap {g h : Grade} (hne : g ≠ h) : g.better h = !h.better g := by
  revert hne
  cases g <;> cases h <;> decide

theorem SvcClass.place_lt {a b : SvcClass} : a.place < b.place ↔ a = .force ∧ b = .normal := by
  cases a <;> cases b <;> decide

theorem SvcClass.place_lt_swap {a b : SvcClass} (hne : a ≠ b) :
    decide (a.place < b.place) = !decide (b.place < a.place) := by
  revert hne
  cases a <;> cases b <;> decide

/-- In a linear order of two that differ exactly one is before the other. -/
theorem decide_lt_swap {α : Type} [LinearOrder α] {a b : α} (hne : a ≠ b) : decide (a < b) = !decide (b < a) := by
  rcases lt_or_gt_of_ne hne with h | h
  · simp [h, le_of_lt h]
  · simp [h, le_of_lt h]

/-- The four keys in turn (R13). -/
theorem ClaimTuple.better_iff (a b : ClaimTuple) : a.better b = true ↔
    (a.cls = .force ∧ b.cls = .normal) ∨
    (a.cls = b.cls ∧ a.grade.better b.grade = true) ∨
    (a.cls = b.cls ∧ a.grade = b.grade ∧ a.rank < b.rank) ∨
    (a.cls = b.cls ∧ a.grade = b.grade ∧ a.rank = b.rank ∧ a.id < b.id) := by
  unfold ClaimTuple.better
  split
  · next hc => simp [hc, SvcClass.place_lt]
  · next hc =>
    have hc : a.cls = b.cls := by simpa using hc
    have hcn : ¬ (a.cls = .force ∧ b.cls = .normal) := by rw [hc]; rintro ⟨h, h'⟩; rw [h] at h'; cases h'
    split
    · next hg => simp [hc, hg, hc ▸ hcn]
    · next hg =>
      have hg : a.grade = b.grade := by simpa using hg
      have hgn : b.grade.better b.grade = false := Grade.better_irrefl _
      split
      · next hr => simp [hc, hg, hgn, hr, hc ▸ hcn]
      · next hr =>
        have hr : a.rank = b.rank := by simpa using hr
        simp [hc, hg, hgn, hr, hc ▸ hcn]

/-- Of two tuples of distinct stations exactly one is better (R13). -/
theorem ClaimTuple.better_swap {a b : ClaimTuple} (h : a.id ≠ b.id) : a.better b = !b.better a := by
  unfold ClaimTuple.better
  by_cases hc : a.cls = b.cls
  · by_cases hg : a.grade = b.grade
    · by_cases hr : a.rank = b.rank
      · simp only [hc, hg, hr, ne_eq, not_true_eq_false, if_false]
        exact decide_lt_swap h
      · simp only [hc, hg, hr, Ne.symm hr, ne_eq, not_true_eq_false, not_false_eq_true, if_false, if_true]
        exact decide_lt_swap hr
    · simp only [hc, hg, Ne.symm hg, ne_eq, not_true_eq_false, not_false_eq_true, if_false, if_true]
      exact Grade.better_swap hg
  · simp only [hc, Ne.symm hc, ne_eq, not_false_eq_true, if_true]
    exact SvcClass.place_lt_swap hc

theorem ownCandidate_iff (s : State) (n : Service) : s.ownCandidate n = true ↔
    s.station.phase = .active ∧ (s.condition n).grade ≠ .unav ∧ (s.planOf n).defined = true := by
  simp [State.ownCandidate]

/-- A peer is a candidate with the values of its last STATUS while it is LIVE (R12). -/
theorem peerCandidate_iff (s : State) (n : Service) (p : StationId) (t : ClaimTuple) : s.peerCandidate n p = some t ↔
    (s.peer p).state = .live ∧ (s.planOf n).defined = true ∧
      ∃ b, (s.peer p).data = some b ∧ (look b.services n).grade ≠ .unav ∧ t = (look b.services n).tuple p := by
  simp only [State.peerCandidate, State.published, State.isLive]
  cases (s.peer p).data with
  | none => simp
  | some b =>
    simp only [Option.map_some, decide_eq_true_eq, Option.some.injEq, exists_eq_left']
    split
    · next h => simp [h, eq_comm]
    · next h =>
      simp only [reduceCtorEq, false_iff]
      rintro ⟨h1, h2, h3, -⟩
      exact h ⟨h1, h3, h2⟩

theorem ownBest_iff (s : State) (n : Service) : s.ownBest n = true ↔
    s.ownCandidate n = true ∧ ∀ p t, s.peerCandidate n p = some t → (s.ownTuple n).better t = true := by
  simp only [State.ownBest, Bool.and_eq_true, List.all_eq_true]
  refine and_congr_right fun _ => ⟨fun h p t ht => ?_, fun h p _ => ?_⟩
  · have hp := h p (List.mem_finRange p)
    rwa [ht] at hp
  · cases hc : s.peerCandidate n p with
    | none => rfl
    | some t => exact h p t hc

/-- Settles O8: the four keys, the grades and the candidates, each by its own lemma. -/
theorem candidateOrder : Obligations.CandidateOrder :=
  ⟨fun a b => ⟨ClaimTuple.better_iff a b, ClaimTuple.better_swap⟩, Grade.better_iff,
    fun s n => ⟨ownCandidate_iff s n, peerCandidate_iff s n, ownBest_iff s n, rfl⟩, fun _ => rfl⟩

/-! ## RESTART and HARD_RESET (R116, R117) -/

/-- The grade that the empty condition and no request give (R79). -/
theorem formGrade_reset (p : PlanRecord) :
    formGrade p .ok .none = if p.defined = true ∧ p.rank ≠ 0 then .ok else .unav := by
  simp only [formGrade, reduceCtorEq, or_false]
  by_cases hd : p.defined = true <;> by_cases hr : p.rank = 0 <;> simp [hd, hr]

/-- A command byte in a write transaction at the command code is taken, and the address moves past the end (R147). -/
theorem exec_restart {s : State} (h : s.host.txn = .data .write (.at 0x0D)) :
    exec .restart s = .next (moveAddress (.at addrCode) (commandRestart (storeCode 3 s))) := by
  have hb : dataByte (.at addrCode) (fun s => runCommand .restart (storeCode Command.restart.code s)) s =
      moveAddress (.at addrCode) (commandRestart (storeCode 3 s)) := by
    unfold dataByte
    rw [h]
    rfl
  exact congrArg Host.Outcome.next hb

/-- A posted event leaves the Host Port as it is but for the Event Queue, the lost count and IRQ. -/
theorem post_host_fields (kind : EventKind) (n : Option Service) (p : Option StationId) (e : Option Epoch)
    (d : Option Detail) (s : State) :
    (post kind n p e d s).host =
      { s.host with
        events := (post kind n p e d s).host.events, lost := (post kind n p e d s).host.lost
        irq := (post kind n p e d s).host.irq } := HostPort.post_frame ..

/-! The tables after RESTART -/

theorem restartStation_entry (s : State) (n : Service) : (restartStation s).entry n = resetEntry s.timebase :=
  resetOwnership_entry ..

theorem restartStation_drv (s : State) (n : Service) : look (restartStation s).oc.drv n = false := look_uniform ..

theorem restartStation_condition (s : State) (n : Service) :
    (restartStation s).condition n = restartCondition (s.planOf n) (s.condition n) := look_tabulate ..

theorem restartStation_peer (s : State) (p : StationId) :
    (restartStation s).peer p = restartPeer s.station.ownId p (s.peer p) := look_tabulate ..

/-- RESTART posts its event and leaves the rest of the Host Port alone. -/
theorem restartStation_events {s : State} (h : s.CanRecord 1) :
    (restartStation s).host.events =
      s.host.events ++ [s.event .phaseChanged none none none (some (.phase .config))] := by
  unfold restartStation
  rw [State.CanRecord.post_events (k := 0)]
  · rfl
  · exact h

/-- The address moves past the end of the command code's window (R147). -/
theorem moveAddress_code {s : State} (h : s.host.txn = .data .write (.at 0x0D)) :
    moveAddress (.at addrCode) s = s.withHost { s.host with txn := .data .write .pastEnd } := by
  unfold moveAddress
  rw [h]
  rfl

theorem restartStation_host (s : State) :
    (restartStation s).host =
      { s.host with
        events := (restartStation s).host.events, lost := (restartStation s).host.lost
        irq := (restartStation s).host.irq } := by
  unfold restartStation
  exact post_host_fields ..

/-- Settles O49: the command's state is `restartStation`'s, read block by block, with the command code, the result and
the address in the Host Port. -/
theorem restartClearsBlocks : Obligations.RestartClearsBlocks := by
  intro s htxn
  have hhost := restartStation_host (storeCode 3 s)
  have hmove : (commandRestart (storeCode 3 s)).host.txn = .data .write (.at 0x0D) := by
    simp only [commandRestart, setResult, withHost_host]
    rw [hhost]
    exact htxn
  refine ⟨_, exec_restart htxn, ?_⟩
  rw [moveAddress_code hmove]
  refine ⟨fun n => ⟨restartStation_drv (storeCode 3 s) n, restartStation_entry (storeCode 3 s) n⟩, fun n => ?_,
    restartStation_peer (storeCode 3 s), rfl, rfl, rfl, rfl, rfl, rfl, rfl, rfl, ?_,
    fun hrec => restartStation_events (s := storeCode 3 s) hrec⟩
  · refine (restartStation_condition (storeCode 3 s) n).trans ?_
    simp only [restartCondition, formGrade_reset]
    rfl
  · simp only [commandRestart, setResult, withHost_host]
    rw [hhost]
    rfl

/-! The tables after hard reset -/

section
variable (id : StationId) (low : Bool) (s : State)

theorem resetBlocks_entry (n : Service) : (resetBlocks id low s).entry n = resetEntry 0 := resetOwnership_entry ..

theorem resetBlocks_drv (n : Service) : look (resetBlocks id low s).oc.drv n = false := look_uniform ..

theorem resetBlocks_condition (n : Service) :
    (resetBlocks id low s).condition n = resetCondition (s.condition n).sf (s.condition n).sd := by
  simp only [resetBlocks, hardResetState, State.condition, look_tabulate]

theorem resetBlocks_peer (p : StationId) : (resetBlocks id low s).peer p = resetPeer id p := look_tabulate ..

theorem resetBlocks_planOf (n : Service) : (resetBlocks id low s).planOf n = resetPlanRecord := look_uniform ..

end

/-- Settles O50: hard reset at either level of RST is `resetBlocks`, read block by block. -/
theorem hardResetClearsEverything : Obligations.HardResetClearsEverything := by
  intro rst id s hrst
  have hreset : ∃ low, hardReset rst s = resetBlocks id low s ∧ (low = true ↔ rst = .low) := by
    rcases hrst with rfl | ⟨rfl, rfl⟩
    · exact ⟨false, rfl, by simp⟩
    · exact ⟨true, rfl, by simp⟩
  obtain ⟨low, hr, hlow⟩ := hreset
  refine ⟨resetBlocks id low s, congrArg Host.Outcome.next hr, hlow, rfl,
    fun n => ⟨resetBlocks_drv id low s n, resetBlocks_entry id low s n⟩, resetBlocks_condition id low s,
    resetBlocks_peer id low s, rfl, rfl, rfl, rfl, rfl, rfl, rfl, resetBlocks_planOf id low s, ?_⟩
  exact ⟨rfl, rfl, rfl, rfl, rfl, rfl, rfl, rfl, rfl, rfl, rfl, rfl, rfl, rfl, rfl, rfl, rfl, rfl, rfl, rfl⟩

end Sys2Proof.Machine

/-! A WTR timer and a retry hold that run out (R4, R14 to R18): what the evaluation that follows does, case by case. -/

namespace Sys2Proof.Machine

/-! ## A queued CLAIM waits to be sent (R134, R135) -/

/-- A CLAIM in the queue is the head that is taken, or stays queued. -/
theorem claim_takeHead {q q' : TxQueue} {f : TxFrame} {n : Service} {e : Epoch} (h : q.takeHead = some (f, q'))
    (hc : (n, e) ∈ q.claims) : (n, e) ∈ q'.claims ∨ f = .claim n e := by
  obtain ⟨us, cs, st⟩ := q
  cases us with
  | cons u rest => cases u <;> cases h <;> exact .inl hc
  | nil =>
    cases cs with
    | nil => cases hc
    | cons c rest =>
      cases h
      rcases List.mem_cons.1 hc with rfl | hm
      · exact .inr rfl
      · exact .inl hm

theorem takeNext_claimWaits {s : State} {n : Service} {e : Epoch} (h : (n, e) ∈ s.tx.queue.claims) :
    (takeNext s).ClaimWaits n e := by
  unfold takeNext
  split
  · split
    · next f q hq =>
      rcases claim_takeHead hq h with hm | rfl
      · exact .inl hm
      · exact .inr ⟨_, rfl, rfl⟩
    · exact .inl h
  · exact .inl h

/-- A CLAIM asked for where the Transmitter accepts requests is queued, or taken at once. -/
theorem requestClaim_claimWaits {s : State} (h : s.station.phase.sends = true) (n : Service) (e : Epoch) :
    (requestClaim n e s).ClaimWaits n e := by
  refine takeNext_claimWaits ?_
  unfold enqueue
  rw [if_pos h]
  exact List.mem_append_right _ (List.mem_singleton.2 rfl)

/-- An own claim queued by an ACTIVE station (R15, R20). -/
theorem queueOwnClaim_claims {n : Service} {s : State} (e : Epoch) (m : ClaimMode) (ha : s.station.phase = .active)
    (hs : (s.entry n).state ≠ .claiming) :
    (queueOwnClaim n e m s).entry n =
        { s.entry n with
          state := .claiming, wtr := none, changed := s.timebase, record := some (s.ownRecord n e m) } ∧
      (queueOwnClaim n e m s).ClaimWaits n e ∧ look (queueOwnClaim n e m s).oc.drv n = false := by
  refine ⟨?_, requestClaim_claimWaits ?_ n e, ?_⟩
  · rw [queueOwnClaim_entry, stamp_of_changed (.inl hs.symm)]
  · show s.station.phase.sends = true
    rw [ha]
    rfl
  · rw [queueOwnClaim, requestClaim, request_oc, putEntry_drv_same]
    rfl

/-- An evaluation leaves the retry hold as it is (R4). -/
theorem Evaluation.retryHold {n : Service} {s t : State} (h : Evaluation n s t) :
    (t.entry n).retryHold = (s.entry n).retryHold := by
  cases h with
  | same => rfl
  | removed => rw [removeWtr_entry]
  | started => rw [startWtr_entry]
  | claimed e m => rw [queueOwnClaim_entry, stamp_retryHold]

/-! ## The cases of an evaluation (R16 to R18) -/

section
variable {n : Service} {s : State} (ha : s.station.phase = .active)
include ha

theorem evaluate_of_free (hs : (s.entry n).state = .vacant ∨ (s.entry n).state = .orphaned) :
    evaluate n s = evaluateFree n s := by
  simp only [evaluate]
  rw [if_neg (not_not_intro ha)]
  rcases hs with hs | hs <;> rw [hs]

theorem evaluate_of_remote {h : StationId} {b : ServiceByte} (hs : (s.entry n).state = .remote)
    (ho : (s.entry n).owner = some h) (hb : s.published h n = some b) : evaluate n s = evaluateRemote n h b s := by
  simp only [evaluate]
  rw [if_neg (not_not_intro ha)]
  simp only [hs, ho, hb]

theorem evaluate_of_watching {r : ClaimRecord} (hs : (s.entry n).state = .watching)
    (hr : (s.entry n).record = some r) : evaluate n s = evaluateWatching n r s := by
  simp only [evaluate]
  rw [if_neg (not_not_intro ha)]
  simp only [hs, hr]

end

section
variable {n : Service} {s : State}

theorem fitToClaim_iff : s.fitToClaim n = true ↔
    (s.condition n).cls = .force ∨ (s.peers.isolated = false ∧ (s.condition n).grade ≠ .fail) := by
  simp [State.fitToClaim]

/-- A station that is isolated, or FAIL, and not FORCE does not claim (R16, R18). -/
theorem fitToClaim_false
    (h : (s.condition n).cls ≠ .force ∧ (s.peers.isolated = true ∨ (s.condition n).grade = .fail)) :
    s.fitToClaim n = false := by
  rw [← Bool.not_eq_true, fitToClaim_iff]
  obtain ⟨hc, hi | hg⟩ := h
  · simp [hc, hi]
  · simp [hc, hg]

theorem takeoverTest_iff {b : ServiceByte} : s.takeoverTest n b = true ↔
    ((s.condition n).cls = .force ∧ b.cls = .normal) ∨
      ((s.condition n).grade.better b.grade = true ∧
        ((s.condition n).cls = .force ∨ (s.condition n).grade ≠ .fail)) := by
  exact decide_eq_true_iff

/-- Against a holder of the same grade a station without FORCE does not take over at once (R17). -/
theorem takeoverTest_of_equal {b : ServiceByte} (hg : (s.condition n).grade = b.grade)
    (hc : (s.condition n).cls = .normal) : s.takeoverTest n b = false := by
  rw [← Bool.not_eq_true, takeoverTest_iff, hg, Grade.better_irrefl]
  simp [hc]

/-- The revertive test holds for the best candidate of equal grade and better rank (R17, step 4). -/
theorem revertiveTest_of {b : ServiceByte} (hb : s.ownBest n = true) (hg : (s.condition n).grade = b.grade)
    (hf : b.grade ≠ .fail) (hr : (s.planOf n).rank < b.rank) (hv : (s.planOf n).revertive = true)
    (hc : (s.condition n).cls = .normal) (hbc : b.cls = .normal) : s.revertiveTest n b = true := by
  simp [State.revertiveTest, State.ownByte, hb, hg, hf, hr, hv, hc, hbc]

theorem evaluateFree_claims (hb : s.ownBest n = true) (hh : (s.entry n).retryHold = none)
    (hf : s.fitToClaim n = true) : evaluateFree n s = queueOwnClaim n (nextEpoch (s.entry n).epoch) .vacant s := by
  simp only [evaluateFree]
  rw [if_pos ⟨hb, hh, hf⟩]

theorem evaluateFree_stays (h : s.ownBest n = false ∨ s.fitToClaim n = false) : evaluateFree n s = removeWtr n s := by
  simp only [evaluateFree]
  rw [if_neg]
  rintro ⟨hb, -, hf⟩
  rcases h with h | h
  · rw [h] at hb
    cases hb
  · rw [h] at hf
    cases hf

theorem evaluateRemote_takesOver {h : StationId} {b : ServiceByte} (hb : s.ownBest n = true)
    (ht : s.takeoverTest n b = true) (hh : (s.entry n).retryHold = none) :
    evaluateRemote n h b s = queueOwnClaim n (nextEpoch (s.entry n).epoch) (.takeover h) s := by
  simp only [evaluateRemote]
  rw [if_pos ⟨hb, ht, hh⟩]

/-- The revertive test alone: the WTR timer is started, or claims the service back when it has run out (R17). -/
theorem evaluateRemote_reverts {h : StationId} {b : ServiceByte} (ht : s.takeoverTest n b = false)
    (hr : s.revertiveTest n b = true) :
    ((s.entry n).wtr = none → evaluateRemote n h b s = startWtr n s) ∧
      ∀ w, (s.entry n).wtr = some w → w.seconds = 0 → (s.entry n).retryHold = none →
        evaluateRemote n h b s = queueOwnClaim n (nextEpoch (s.entry n).epoch) (.takeover h) s := by
  simp only [evaluateRemote]
  rw [if_neg (by simp [ht]), if_pos ⟨hr, ht⟩]
  refine ⟨fun hw => by simp only [hw], fun w hw hsec hh => ?_⟩
  simp only [hw]
  rw [if_pos ⟨hsec, hh⟩]

theorem evaluateRemote_stays {h : StationId} {b : ServiceByte} (hb : s.ownBest n = false) :
    evaluateRemote n h b s = removeWtr n s := by
  simp only [evaluateRemote, State.revertiveTest]
  simp [hb]

theorem evaluateWatching_competes {r : ClaimRecord} (he : r.epoch = nextEpoch (s.entry n).epoch)
    (hc : s.ownCandidate n = true) (hb : (s.ownTuple n).better r.tuple = true) (hh : (s.entry n).retryHold = none)
    (hf : s.fitToClaim n = true) : evaluateWatching n r s = queueOwnClaim n r.epoch r.mode s := by
  simp only [evaluateWatching]
  rw [if_pos ⟨he, hc, hb, hh, hf⟩]

theorem evaluateWatching_stays {r : ClaimRecord}
    (h : r.epoch ≠ nextEpoch (s.entry n).epoch ∨ s.ownCandidate n = false ∨ (s.ownTuple n).better r.tuple = false ∨
      s.fitToClaim n = false) : evaluateWatching n r s = s := by
  simp only [evaluateWatching]
  rw [if_neg]
  rintro ⟨he, hc, hb, -, hf⟩
  rcases h with h | h | h | h
  · exact h he
  · rw [h] at hc
    cases hc
  · rw [h] at hb
    cases hb
  · rw [h] at hf
    cases hf

end

/-! ## The WTR timer (R17, R56) -/

/-- The state in which the WTR timer `w` of entry `n` stands at 0 with its running out taken, before the evaluation. -/
def wtrStanding (n : Service) (w : WtrTimer) (s : State) : State :=
  putEntry n { s.entry n with wtr := some { w with due := false } } s

theorem wtrStanding_entry (n : Service) (w : WtrTimer) (s : State) :
    (wtrStanding n w s).entry n = { s.entry n with wtr := some { w with due := false } } := by
  rw [wtrStanding, putEntry_entry_same]
  exact stamp_of_same rfl rfl rfl

theorem wtrRunsOut_of_due {n : Service} {w : WtrTimer} {s : State} (hw : (s.entry n).wtr = some w)
    (hd : w.due = true) : wtrRunsOut n s = evaluate n (wtrStanding n w s) := by
  simp only [wtrRunsOut, hw]
  rw [if_pos hd]
  rfl

/-- Settles O16: the timer stays present at 0, so the revertive test of the evaluation that follows queues the claim. -/
theorem wtrTimerClaimsBack : Obligations.WtrTimerClaimsBack := by
  intro n s w h b ha hs ho hb hw ⟨hdue, hsec⟩ hh hv ⟨hg, hf⟩ hr ⟨hc, hbc⟩ hbest
  have hstep := wtrRunsOut_entryStep n s
  have hu := wtrStanding_entry n w s
  have hrev := (evaluateRemote_reverts (s := wtrStanding n w s) (h := h) (takeoverTest_of_equal hg hc)
    (revertiveTest_of hbest hg hf hr hv hc hbc)).2 { w with due := false } (by rw [hu]) hsec (by rw [hu]; exact hh)
  have hremote := evaluate_of_remote (s := wtrStanding n w s) (n := n) (h := h) (b := b) ha (by rw [hu]; exact hs)
    (by rw [hu]; exact ho) hb
  rw [hu] at hrev
  have heval := (wtrRunsOut_of_due hw hdue).trans (hremote.trans hrev)
  have hclaims := queueOwnClaim_claims (n := n) (s := wtrStanding n w s) (nextEpoch (s.entry n).epoch) (.takeover h) ha
    (by rw [hu, hs]; decide)
  refine ⟨wtrRunsOut n s, rfl, ?_⟩
  refine ⟨?_, ?_, hstep.others, ?_, hstep.owner.onlyOwnership⟩
  · rw [heval, hclaims.1, hu, ← hc]
    rfl
  · rw [heval]
    exact hclaims.2.2
  · rw [heval]
    exact hclaims.2.1

/-! ## The retry hold (R4, R14) -/

/-- The state in which the retry hold of entry `n` has gone and its evaluation follows. -/
def unheld (n : Service) (s : State) : State := putEntry n { s.entry n with retryHold := none } s

theorem unheld_entry (n : Service) (s : State) : (unheld n s).entry n = { s.entry n with retryHold := none } := by
  rw [unheld, putEntry_entry_same]
  exact stamp_of_same rfl rfl rfl

theorem retryRunsOut_of_zero {n : Service} {s : State} (h : (s.entry n).retryHold = some 0) :
    retryRunsOut n s = evaluate n (unheld n s) := by
  unfold retryRunsOut
  rw [if_pos h]
  rfl

/-- A claim queued once the retry hold has gone. -/
theorem unheld_claims {n : Service} {s t : State} {e : Epoch} {m : ClaimMode}
    (ht : t = queueOwnClaim n e m (unheld n s)) (ha : s.station.phase = .active)
    (hs : (s.entry n).state ≠ .claiming) :
    t.entry n =
        { s.entry n with
          state := .claiming, retryHold := none, wtr := none, changed := s.timebase
          record := some (s.ownRecord n e m) } ∧
      t.ClaimWaits n e := by
  have hclaims := queueOwnClaim_claims (n := n) (s := unheld n s) e m ha (by rw [unheld_entry]; exact hs)
  rw [ht]
  refine ⟨?_, hclaims.2.1⟩
  rw [hclaims.1, unheld_entry]
  rfl

/-- No claim queued once the retry hold has gone: the WTR timer goes too. -/
theorem unheld_removed {n : Service} {s t : State} (ht : t = removeWtr n (unheld n s)) :
    t.entry n = { s.entry n with retryHold := none, wtr := none } ∧ t.tx = s.tx := by
  rw [ht]
  refine ⟨?_, rfl⟩
  rw [removeWtr_entry, unheld_entry]

/-- Settles O17: without the hold the evaluation of the entry follows, by the entry's state. -/
theorem retryHoldRunsOut : Obligations.RetryHoldRunsOut := by
  intro n s h0
  have hu := unheld_entry n s
  have hstep := retryRunsOut_entryStep n s
  have heval := retryRunsOut_of_zero h0
  refine ⟨retryRunsOut n s, rfl, ?_, hstep.others, hstep.owner.onlyOwnership, fun hp => ?_, fun ha hs => ?_,
    fun ha h b hs ho hb => ?_, fun ha r hs hr => ?_⟩
  · rw [heval, (evaluate_evaluation n (unheld n s)).retryHold, hu]
  · rw [heval]
    exact evaluate_of_not_active hp
  · have hfree := heval.trans (evaluate_of_free (s := unheld n s) ha (by rw [hu]; exact hs))
    have hne : (s.entry n).state ≠ .claiming := by rcases hs with hs | hs <;> rw [hs] <;> decide
    refine ⟨fun hb hf => ?_, fun hn => ?_⟩
    · have hq := evaluateFree_claims (s := unheld n s) (n := n) hb (by rw [hu]) (fitToClaim_iff.2 hf)
      rw [hu] at hq
      exact unheld_claims (hfree.trans hq) ha hne
    · exact unheld_removed (hfree.trans (evaluateFree_stays (s := unheld n s) (hn.imp id fitToClaim_false)))
  · have hremote := heval.trans (evaluate_of_remote (s := unheld n s) (n := n) (h := h) (b := b) ha
      (by rw [hu]; exact hs) (by rw [hu]; exact ho) hb)
    refine ⟨fun hbest ht => ?_, fun hbest ⟨hg, hf⟩ hr hv ⟨hc, hbc⟩ hw => ?_, fun hbest => ?_⟩
    · have hq := evaluateRemote_takesOver (s := unheld n s) (n := n) (h := h) hbest (takeoverTest_iff.2 ht)
        (by rw [hu])
      rw [hu] at hq
      exact unheld_claims (hremote.trans hq) ha (by rw [hs]; decide)
    · have hq := (evaluateRemote_reverts (s := unheld n s) (h := h) (takeoverTest_of_equal hg hc)
        (revertiveTest_of hbest hg hf hr hv hc hbc)).1 (by rw [hu]; exact hw)
      rw [hremote.trans hq]
      refine ⟨?_, rfl⟩
      rw [startWtr_entry, hu]
      rfl
    · exact unheld_removed (hremote.trans (evaluateRemote_stays (s := unheld n s) hbest))
  · have hwatch := heval.trans (evaluate_of_watching (s := unheld n s) (r := r) ha (by rw [hu]; exact hs)
      (by rw [hu]; exact hr))
    refine ⟨fun ⟨he, hc, hb, hf⟩ => ?_, fun hn => ?_⟩
    · have hq := evaluateWatching_competes (s := unheld n s) (n := n) (by rw [hu]; exact he) hc hb (by rw [hu])
        (fitToClaim_iff.2 hf)
      exact unheld_claims (hwatch.trans hq) ha (by rw [hs]; decide)
    · have hq := evaluateWatching_stays (s := unheld n s) (n := n) (r := r) (by
        rw [hu]
        exact hn.imp id (Or.imp id (Or.imp id fitToClaim_false)))
      rw [hwatch.trans hq]
      exact ⟨hu, rfl⟩

end Sys2Proof.Machine

/-! What a station takes from the frames of its peers: CLAIM where it does not hold (R23 to R26), RELEASE (R37, R50,
R51) and OBJECT (R33). -/

namespace Sys2Proof.Machine

/-! ## Settled entries (R7) -/

/-- Being settled reads the record, the owner and the state alone. -/
theorem State.SettledAs.of_fields {s : State} {a b : ServiceEntry} (h : s.SettledAs a) (hr : b.record = a.record)
    (ho : b.owner = a.owner) (hs : b.state = a.state) : s.SettledAs b := by
  unfold State.SettledAs
  rw [hr, ho, hs]
  exact h

/-- What `settled` makes of an entry is settled. -/
theorem settledAs_settled (s : State) (e : ServiceEntry) : s.SettledAs (s.settled e) := by
  refine ⟨rfl, ?_⟩
  simp only [State.settled]
  cases e.owner with
  | none => rfl
  | some p => rfl

theorem stamp_changed_of_same {now : Word16} {a b : ServiceEntry} (hs : b.state = a.state) (ho : b.owner = a.owner)
    (he : b.epoch = a.epoch) : (stamp now a b).changed = a.changed := by
  rw [stamp_of_same hs ho he]

/-! ## Events and the Transmitter under a change of an entry -/

/-- Posting takes no record out of the Event Queue (R153). -/
theorem post_events_grow (k : EventKind) (n : Option Service) (p : Option StationId) (e : Option Epoch)
    (d : Option Detail) (s : State) : s.host.events <+: (post k n p e d s).host.events := by
  simp only [post, withHost_host]
  rcases HostPort.post_cases s.host _ with ⟨-, h⟩ | ⟨-, -, h⟩ | ⟨-, -, h⟩
  · rw [h]
  · rw [h]
    exact ⟨_, rfl⟩
  · rw [h]

theorem changeEntry_events_grow (n : Service) (e : ServiceEntry) (s : State) :
    s.host.events <+: (changeEntry n e s).host.events := by
  simp only [changeEntry]
  split
  · exact post_events_grow ..
  · exact ⟨[], List.append_nil _⟩

theorem dropRecord_eq (n : Service) (s : State) : dropRecord n s = putEntry n (s.settled (s.entry n)) s :=
  changeEntry_of_same rfl rfl

/-! ## CLAIM where this station does not hold (R23 to R26) -/

theorem compareEpochs_self (e : Epoch) : compareEpochs (some e) (some e) = .equal := by simp [compareEpochs]

/-- Claims that change nothing at a station that does not hold the service (R23, rows 1, 2, 5 and 6). -/
theorem receiveClaim_ignored {p : StationId} {c : ClaimBody} {s : State} (hs : (s.entry c.service).state ≠ .held)
    (h : (s.planOf c.service).defined = false ∨ c.claimed.grade = .unav ∨ c.claimed.rank = 0 ∨ s.isLive p = false ∨
      compareEpochs (some c.epoch) (s.entry c.service).epoch ≠ .newer) : receiveClaim p c s = s := by
  simp only [receiveClaim]
  split
  · rfl
  · next hd =>
    split
    · rfl
    · next hg =>
      split
      · rfl
      · next hl =>
        have he : compareEpochs (some c.epoch) (s.entry c.service).epoch ≠ .newer := by tauto
        rw [if_pos he]

/-- Any other claim is recorded, or compared with the record there (R24, R25). -/
theorem receiveClaim_taken {p : StationId} {c : ClaimBody} {s : State} (hs : (s.entry c.service).state ≠ .held)
    (hd : (s.planOf c.service).defined = true) (hg : c.claimed.grade ≠ .unav) (hr : c.claimed.rank ≠ 0)
    (hl : s.isLive p = true) (he : compareEpochs (some c.epoch) (s.entry c.service).epoch = .newer) :
    ((s.entry c.service).record = none → receiveClaim p c s = recordClaim p c s) ∧
      ∀ r, (s.entry c.service).record = some r → receiveClaim p c s = compareClaim p c r s := by
  simp only [receiveClaim]
  rw [if_neg (by simp [hd]), if_neg (by tauto), if_neg hs, if_neg (by simp [hl]), if_neg (not_not_intro he)]
  exact ⟨fun h => by rw [h], fun r h => by rw [h]⟩

/-- The worse claim: older, or of the same epoch from another claimant with a tuple that is not better (R25). -/
theorem not_beats {p : StationId} {c : ClaimBody} {r : ClaimRecord}
    (h : compareEpochs (some c.epoch) (some r.epoch) = .older ∨
      (c.epoch = r.epoch ∧ p ≠ r.claimant ∧ (c.claimed.tuple p).better r.tuple = false)) :
    (watchedRecord p c).beats r = false := by
  rcases h with h | ⟨he, hp, ht⟩
  · simp only [ClaimRecord.beats, watchedRecord, h]
  · have ht' : (watchedRecord p c).tuple.better r.tuple = false := ht
    simp only [ClaimRecord.beats, ht']
    simp [watchedRecord, he, compareEpochs_self, hp]

theorem beats_of {p : StationId} {c : ClaimBody} {r : ClaimRecord}
    (h : compareEpochs (some c.epoch) (some r.epoch) = .newer ∨
      (c.epoch = r.epoch ∧ ((c.claimed.tuple p).better r.tuple = true ∨ p = r.claimant))) :
    (watchedRecord p c).beats r = true := by
  rcases h with h | ⟨he, hp⟩
  · simp only [ClaimRecord.beats, watchedRecord, h]
  · simp only [ClaimRecord.beats, watchedRecord, he, compareEpochs_self, Bool.or_eq_true, decide_eq_true_eq]
    exact hp

/-- The own claim of entry `n` is beaten by a received one, before the evaluation (R26). -/
def beaten (p : StationId) (c : ClaimBody) (r : ClaimRecord) (s : State) : State :=
  post .claimFailed (some c.service) (some p) (some r.epoch) (some (.claimFailed .beaten))
    (putEntry c.service
      { s.entry c.service with
        state := .watching, record := some (watchedRecord p c), retryHold := some Config.retryHold } s)

theorem compareClaim_of_own {p : StationId} {c : ClaimBody} {r : ClaimRecord} {s : State}
    (hb : (watchedRecord p c).beats r = true) (ho : r.claimant = s.station.ownId) :
    compareClaim p c r s = evaluate c.service (beaten p c r s) := by
  simp only [compareClaim]
  rw [if_neg (by simp [hb]), if_pos ho]
  rfl

theorem compareClaim_of_watched {p : StationId} {c : ClaimBody} {r : ClaimRecord} {s : State}
    (hb : (watchedRecord p c).beats r = true) (ho : r.claimant ≠ s.station.ownId) :
    compareClaim p c r s = putEntry c.service { s.entry c.service with record := some (watchedRecord p c) } s := by
  simp only [compareClaim]
  rw [if_neg (by simp [hb]), if_neg ho]

theorem beaten_entry (p : StationId) (c : ClaimBody) (r : ClaimRecord) (s : State) :
    (beaten p c r s).entry c.service =
      stamp s.timebase (s.entry c.service)
        { s.entry c.service with
          state := .watching, record := some (watchedRecord p c), retryHold := some Config.retryHold } := by
  rw [beaten, post_entry, putEntry_entry_same]

/-- The retry hold that begins keeps the evaluation from touching more than the WTR timer (R15, R31). -/
theorem evaluate_beaten (p : StationId) (c : ClaimBody) (r : ClaimRecord) (s : State) :
    (evaluate c.service (beaten p c r s)).tx = s.tx ∧
      ∃ w, (evaluate c.service (beaten p c r s)).entry c.service =
        { (beaten p c r s).entry c.service with wtr := w } := by
  have h := (evaluate_evaluation c.service (beaten p c r s)).of_held_back (by rw [beaten_entry, stamp_retryHold]; simp)
  exact ⟨h.1, _, h.2⟩

/-- Settles O40: Table 2-2 for an entry that is not HELD, with the comparison of R25 where a record stands. -/
theorem claimsAtNonHolder : Obligations.ClaimsAtNonHolder := by
  intro p c s hs
  refine ⟨receiveClaim_ignored hs, fun hd hg hr hl he => ?_⟩
  obtain ⟨hnew, hold⟩ := receiveClaim_taken hs hd hg hr hl he
  refine ⟨fun hrec hp => ?_, fun r hrec => ⟨fun hw => ?_, fun hb => ?_⟩⟩
  · rw [hnew hrec]
    exact evaluate_of_not_active hp
  · rw [hold r hrec]
    simp only [compareClaim]
    rw [if_pos (not_beats hw)]
  · have hstep := receiveClaim_entryStep p c s
    by_cases ho : r.claimant = s.station.ownId
    · obtain ⟨htx, w, hentry⟩ := evaluate_beaten p c r s
      have hown := (hold r hrec).trans (compareClaim_of_own (beats_of hb) ho)
      refine ⟨?_, hstep.others, hstep.owner.onlyOwnership, ?_, fun hn => absurd ho hn, fun _ hc => ?_⟩
      · rw [hown, hentry, beaten_entry]
        exact stamp_record ..
      · rw [hown, htx]
      · rw [hown, hentry, beaten_entry, stamp_of_changed (.inl (by simp [hc]))]
        refine ⟨rfl, rfl, rfl, fun hrec => ?_⟩
        rw [evaluate_host]
        exact State.CanRecord.post_events (k := 0) _ _ _ _ _ hrec
    · have hwatched := (hold r hrec).trans (compareClaim_of_watched (beats_of hb) ho)
      refine ⟨?_, hstep.others, hstep.owner.onlyOwnership, ?_, fun _ => ⟨?_, ?_⟩, fun h => absurd h ho⟩
      · rw [hwatched, putEntry_entry_same]
        exact stamp_record ..
      · rw [hwatched]
        rfl
      · rw [hwatched]
        rfl
      · rw [hwatched, putEntry_entry_same]
        exact stamp_changed_of_same rfl rfl rfl

namespace ServiceEntry.Agrees
variable {own : StationId} {live : StationId → Bool} {may : Prop} {e : ServiceEntry} {r : ClaimRecord}

theorem claimant_of_claiming (h : e.Agrees own live may) (hs : e.state = .claiming) (hr : e.record = some r) :
    r.claimant = own := by
  obtain ⟨-, -, ⟨-, hc, -⟩ | ⟨hw, -⟩⟩ := h.of_record hr
  · exact hc
  · rw [hs] at hw
    cases hw

theorem claimant_of_watching (h : e.Agrees own live may) (hs : e.state = .watching) (hr : e.record = some r) :
    r.claimant ≠ own := by
  obtain ⟨-, -, ⟨hc, -⟩ | ⟨-, hc, -⟩⟩ := h.of_record hr
  · rw [hs] at hc
    cases hc
  · exact hc

end ServiceEntry.Agrees

/-! ## RELEASE entries (R37, R50, R51) -/

/-- A withdrawal removes the watched record of the claim it names (R37). -/
theorem receiveWithdraw_of_named {p : StationId} {x : ReleaseEntry} {r : ClaimRecord} {s : State}
    (hs : (s.entry x.service).state = .watching) (hr : (s.entry x.service).record = some r) (hp : r.claimant = p)
    (he : r.epoch = x.epoch) : receiveWithdraw p x s = evaluate x.service (dropRecord x.service s) := by
  simp only [receiveWithdraw, hr]
  rw [if_pos ⟨hp, he, hs⟩]

theorem receiveWithdraw_of_unnamed {p : StationId} {x : ReleaseEntry} {s : State}
    (h : (s.entry x.service).state ≠ .watching ∨
      ∀ r ∈ (s.entry x.service).record, r.claimant ≠ p ∨ r.epoch ≠ x.epoch) : receiveWithdraw p x s = s := by
  unfold receiveWithdraw
  split
  · next r hr =>
    rw [if_neg]
    rintro ⟨hp, he, hs⟩
    rcases h with h | h
    · exact h hs
    · rcases h r hr with h | h
      · exact h hp
      · exact h he
  · rfl

theorem answeredBy_iff (r : ClaimRecord) (p : StationId) (x : ReleaseEntry) :
    r.answeredBy p x = true ↔ r.mode = .takeover p ∧ x.epoch = r.epoch - 1 := by
  simp [ClaimRecord.answeredBy, ClaimMode.targets]

section
variable {p : StationId} {x : ReleaseEntry} {s : State} (hd : (s.planOf x.service).defined = true)
include hd

theorem receiveRelease_withdraw (hx : x.reason = .withdraw) : receiveRelease p x s = receiveWithdraw p x s := by
  unfold receiveRelease
  rw [if_neg (by simp [hd]), if_pos hx]

/-- An entry that answers the record here is an answer to its claim (R50). -/
theorem receiveRelease_answer {r : ClaimRecord} (hx : x.reason ≠ .withdraw) (hr : (s.entry x.service).record = some r)
    (hm : r.mode = .takeover p) (he : x.epoch = r.epoch - 1) :
    receiveRelease p x s = answerRecord x.service r s := by
  unfold receiveRelease
  rw [if_neg (by simp [hd]), if_neg hx]
  simp only [hr]
  rw [if_pos ((answeredBy_iff r p x).2 ⟨hm, he⟩)]

/-- Any other entry counts where it comes from the owner (R51). -/
theorem receiveRelease_owner (hx : x.reason ≠ .withdraw)
    (h : ∀ r ∈ (s.entry x.service).record, r.mode ≠ .takeover p ∨ x.epoch ≠ r.epoch - 1) :
    receiveRelease p x s = releaseByOwner p x s := by
  unfold receiveRelease
  rw [if_neg (by simp [hd]), if_neg hx]
  split
  · next r hr =>
    rw [if_neg]
    rw [answeredBy_iff]
    have := h r hr
    tauto
  · rfl

end

/-- The entry without its owner, before the evaluation (R51). -/
theorem releaseByOwner_of_free {p : StationId} {x : ReleaseEntry} {s : State}
    (hr : (s.entry x.service).record = none) (ho : (s.entry x.service).owner = some p)
    (he : (s.entry x.service).epoch = some x.epoch) :
    releaseByOwner p x s =
      evaluate x.service (changeEntry x.service { s.entry x.service with owner := none, state := .vacant } s) := by
  simp only [releaseByOwner]
  rw [if_pos ⟨ho, he⟩]
  simp only [hr]

theorem releaseByOwner_of_record {p : StationId} {x : ReleaseEntry} {r : ClaimRecord} {s : State}
    (hr : (s.entry x.service).record = some r) (ho : (s.entry x.service).owner = some p)
    (he : (s.entry x.service).epoch = some x.epoch) :
    releaseByOwner p x s = changeEntry x.service { s.entry x.service with owner := none } s := by
  simp only [releaseByOwner]
  rw [if_pos ⟨ho, he⟩]
  simp only [hr]

theorem releaseByOwner_of_other {p : StationId} {x : ReleaseEntry} {s : State}
    (h : (s.entry x.service).owner ≠ some p ∨ (s.entry x.service).epoch ≠ some x.epoch) :
    releaseByOwner p x s = s := by
  simp only [releaseByOwner]
  rw [if_neg]
  rintro ⟨ho, he⟩
  rcases h with h | h
  · exact h ho
  · exact h he

/-- A release heard decides for the claim (R28, condition 5). -/
theorem windowFails_of_heard {s : State} {r : ClaimRecord} (h : r.releaseHeard = true) : s.windowFails r = false := by
  unfold State.windowFails
  split
  · rfl
  · simp [h]

/-- An evaluation of a HELD entry touches its WTR timer alone, and its drive stays on (R15, R42). -/
theorem evaluate_keeps_held {n : Service} {s : State} (hs : (s.entry n).state = .held) (hd : look s.oc.drv n = true) :
    (∃ w, (evaluate n s).entry n = { s.entry n with wtr := w }) ∧ look (evaluate n s).oc.drv n = true := by
  rcases evaluate_of_held hs with h | h
  · rw [h]
    exact ⟨⟨_, rfl⟩, hd⟩
  · rw [h, removeWtr_entry, removeWtr, putEntry_drv_same]
    exact ⟨⟨_, rfl⟩, by simp [hs]⟩

/-- An own claim accepted, before the evaluation (R29). -/
def accepted (n : Service) (r : ClaimRecord) (s : State) : State :=
  post .svcHeld (some n) r.mode.target (some r.epoch) (some r.mode.detail)
    (requestStatus
      (putEntry n
        { s.entry n with state := .held, owner := some s.station.ownId, epoch := some r.epoch, record := none } s))

theorem acceptOwnClaim_eq (n : Service) (r : ClaimRecord) (s : State) :
    acceptOwnClaim n r s = evaluate n (accepted n r s) := rfl

theorem accepted_entry (n : Service) (r : ClaimRecord) (s : State) :
    (accepted n r s).entry n =
      stamp s.timebase (s.entry n)
        { s.entry n with state := .held, owner := some s.station.ownId, epoch := some r.epoch, record := none } := by
  rw [accepted, post_entry, requestStatus, request_entry, putEntry_entry_same]

theorem accepted_drv (n : Service) (r : ClaimRecord) (s : State) : look (accepted n r s).oc.drv n = true := by
  rw [accepted, post, withHost_oc, requestStatus, request_oc, putEntry_drv_same]
  rfl

/-- An accepted own claim leaves the entry HELD at the claim epoch with its drive on (R29). -/
theorem acceptOwnClaim_held (n : Service) (r : ClaimRecord) (s : State) :
    ((acceptOwnClaim n r s).entry n).state = .held ∧
      ((acceptOwnClaim n r s).entry n).owner = some s.station.ownId ∧
      ((acceptOwnClaim n r s).entry n).epoch = some r.epoch ∧ ((acceptOwnClaim n r s).entry n).record = none ∧
      look (acceptOwnClaim n r s).oc.drv n = true := by
  have he := accepted_entry n r s
  obtain ⟨⟨w, hw⟩, hd⟩ := evaluate_keeps_held (by rw [he, stamp_state]) (accepted_drv n r s)
  rw [acceptOwnClaim_eq]
  refine ⟨?_, ?_, ?_, ?_, hd⟩
  · rw [hw, he]
    exact stamp_state ..
  · rw [hw, he]
    exact stamp_owner ..
  · rw [hw, he]
    exact stamp_epoch ..
  · rw [hw, he]
    exact stamp_record ..

theorem acceptWatchedClaim_owner (n : Service) (r : ClaimRecord) (s : State) :
    ((acceptWatchedClaim n r s).entry n).owner = some r.claimant ∧
      ((acceptWatchedClaim n r s).entry n).epoch = some r.epoch := by
  simp only [acceptWatchedClaim, evaluate_owner, evaluate_epoch, changeEntry_entry_same, stamp_owner, stamp_epoch]
  exact ⟨rfl, rfl⟩

/-- An answered window that runs ends with acceptance: the claim is the own one, or a watched one (R28, R50). -/
theorem answerRecord_accepts {n : Service} {r : ClaimRecord} {s : State} (hw : r.window ≠ none) :
    answerRecord n r s =
      if r.claimant = s.station.ownId then
        acceptOwnClaim n { r with releaseHeard := true }
          (putEntry n { s.entry n with record := some { r with releaseHeard := true } } s)
      else
        acceptWatchedClaim n { r with releaseHeard := true }
          (putEntry n { s.entry n with record := some { r with releaseHeard := true } } s) := by
  simp only [answerRecord]
  split
  · simp only [endWindow, windowFails_of_heard, Bool.false_eq_true, if_false]
    rfl
  · next h => exact absurd h hw

/-- A withdrawal that names the watched record (R37). -/
theorem dropRecord_evaluated (n : Service) (s : State) :
    ((evaluate n (dropRecord n s)).entry n).owner = (s.entry n).owner ∧
      ((evaluate n (dropRecord n s)).entry n).epoch = (s.entry n).epoch ∧
      (s.station.phase ≠ .active → s.SettledAs ((evaluate n (dropRecord n s)).entry n)) ∧
      (evaluate n (dropRecord n s)).host = s.host := by
  rw [dropRecord_eq, evaluate_owner, evaluate_epoch, evaluate_host, putEntry_entry_same, stamp_owner, stamp_epoch]
  refine ⟨rfl, rfl, fun hp => ?_, rfl⟩
  rw [evaluate_of_not_active (s := putEntry ..) hp, putEntry_entry_same]
  exact State.SettledAs.of_fields (settledAs_settled s (s.entry n)) (stamp_record ..) (stamp_owner ..) (stamp_state ..)

/-- The owner's release of an entry without a record (R51). -/
theorem releaseByOwner_frees {p : StationId} {x : ReleaseEntry} {s : State} (hr : (s.entry x.service).record = none)
    (ho : (s.entry x.service).owner = some p) (he : (s.entry x.service).epoch = some x.epoch)
    (hs : (s.entry x.service).state ≠ .held) :
    ((releaseByOwner p x s).entry x.service).owner = none ∧
      ((releaseByOwner p x s).entry x.service).epoch = some x.epoch ∧
      (s.station.phase ≠ .active →
        ((releaseByOwner p x s).entry x.service).state = .vacant ∧
          ((releaseByOwner p x s).entry x.service).record = none) ∧
      (s.CanRecord 1 →
        (releaseByOwner p x s).host.events =
          s.host.events ++ [s.event .ownerChanged (some x.service) none (some x.epoch) none]) := by
  rw [releaseByOwner_of_free hr ho he, evaluate_owner, evaluate_epoch, evaluate_host, changeEntry_entry_same,
    stamp_owner, stamp_epoch]
  refine ⟨rfl, he, fun hp => ?_, fun hrec => ?_⟩
  · rw [evaluate_of_not_active (by rw [(changeEntry_step ..).station]; exact hp), changeEntry_entry_same, stamp_state,
      stamp_record]
    exact ⟨rfl, hr⟩
  · rw [changeEntry_of_changed hs (by simp) (.inl (by rw [ho]; simp))]
    dsimp only
    rw [he]
    exact State.CanRecord.post_events (k := 0) _ _ _ _ _ hrec

/-- Settles O42: the reason, then the record, then the owner decide what a RELEASE entry does. -/
theorem releaseEntries : Obligations.ReleaseEntries := by
  intro p x s
  have hstep := receiveRelease_entryStep p x s
  refine ⟨fun hd => ?_, fun hd => ⟨fun hx => ⟨fun r hs hr hp he => ?_, fun h => ?_⟩,
    fun hx => ⟨fun r hr hm he => ?_, fun hr ho he hs => ?_, fun r hr hn ho he => ?_, fun hn h => ?_⟩⟩⟩
  · unfold receiveRelease
    rw [if_pos hd]
  · have hdrop := (receiveRelease_withdraw hd hx).trans (receiveWithdraw_of_named hs hr hp he)
    obtain ⟨ho, hep, hset, hhost⟩ := dropRecord_evaluated x.service s
    rw [← hdrop] at ho hep hset hhost
    exact ⟨ho, hep, hset, hstep.others, hstep.owner.onlyOwnership, hhost⟩
  · exact (receiveRelease_withdraw hd hx).trans (receiveWithdraw_of_unnamed h)
  · rw [receiveRelease_answer hd hx hr hm he]
    refine ⟨fun hw => ?_, fun hw hs hag => ?_, fun hw hs hag => ?_⟩
    · simp only [answerRecord, hw]
    · have hown := ServiceEntry.Agrees.claimant_of_claiming hag hs hr
      rw [answerRecord_accepts hw, if_pos hown]
      exact acceptOwnClaim_held ..
    · have hown := ServiceEntry.Agrees.claimant_of_watching hag hs hr
      rw [answerRecord_accepts hw, if_neg hown]
      exact acceptWatchedClaim_owner ..
  · have howner := receiveRelease_owner (p := p) hd hx (by rw [hr]; simp)
    obtain ⟨h1, h2, h3, h4⟩ := releaseByOwner_frees hr ho he hs
    rw [← howner] at h1 h2 h3 h4
    exact ⟨h1, h2, h3, hstep.others, hstep.owner.onlyOwnership, h4⟩
  · have howner := receiveRelease_owner (p := p) hd hx (fun r' hr' => by cases hr.symm.trans hr'; exact hn)
    exact howner.trans (releaseByOwner_of_record hr ho he)
  · exact (receiveRelease_owner hd hx hn).trans (releaseByOwner_of_other h)

/-! ## OBJECT entries (R33) -/

theorem objectedEntry_retryHold (p : StationId) (x : ObjectEntry) (e : ServiceEntry) :
    (objectedEntry p x e).retryHold = e.retryHold := by
  unfold objectedEntry
  split <;> rfl

theorem receiveObject_ignored {p : StationId} {x : ObjectEntry} {s : State}
    (h : (s.planOf x.service).defined = false ∨
      ∀ r ∈ (s.entry x.service).record, r.claimant ≠ x.claimant ∨ r.epoch ≠ x.claimEpoch) :
    receiveObject p x s = s := by
  simp only [receiveObject]
  split
  · rfl
  · next hd =>
    split
    · next r hr =>
      have hn := (h.resolve_left hd) r hr
      rw [if_neg (by tauto)]
    · rfl

/-- The entry that OBJECT leaves, owned by the objector for OWNER_LIVE (R33). -/
theorem objectedEntry_owner (p : StationId) (x : ObjectEntry) (e : ServiceEntry) :
    (x.cause = .ownerLive →
        (objectedEntry p x e).owner = some p ∧ (objectedEntry p x e).epoch = some x.holderEpoch) ∧
      (x.cause ≠ .ownerLive → (objectedEntry p x e).owner = e.owner ∧ (objectedEntry p x e).epoch = e.epoch) := by
  unfold objectedEntry
  constructor
  · intro h
    rw [if_pos h]
    exact ⟨rfl, rfl⟩
  · intro h
    rw [if_neg h]
    exact ⟨rfl, rfl⟩

/-- The own claim of entry `x.service` fails by an OBJECT entry, before the evaluation (R31, R33). -/
def objected (p : StationId) (x : ObjectEntry) (r : ClaimRecord) (s : State) : State :=
  let s' := post .claimFailed (some x.service) (some p) (some r.epoch) (some (.claimFailed (.objected x.cause))) s
  changeEntry x.service
    { s'.settled (objectedEntry p x (s.entry x.service)) with retryHold := some Config.retryHold } s'

theorem objected_entry (p : StationId) (x : ObjectEntry) (r : ClaimRecord) (s : State) :
    (objected p x r s).entry x.service =
      stamp s.timebase (s.entry x.service)
        { s.settled (objectedEntry p x (s.entry x.service)) with retryHold := some Config.retryHold } := by
  simp only [objected, changeEntry_entry_same]
  rfl

theorem objected_events {x : ObjectEntry} {s : State} (p : StationId) (r : ClaimRecord) (h : s.CanRecord 1) :
    s.host.events ++
        [s.event .claimFailed (some x.service) (some p) (some r.epoch) (some (.claimFailed (.objected x.cause)))] <+:
      (objected p x r s).host.events := by
  rw [← State.CanRecord.post_events (k := 0) _ _ _ _ _ h]
  exact changeEntry_events_grow ..

section
variable {p : StationId} {x : ObjectEntry} {r : ClaimRecord} {s : State}
  (hd : (s.planOf x.service).defined = true) (hr : (s.entry x.service).record = some r)
  (hc : r.claimant = x.claimant) (he : r.epoch = x.claimEpoch)
include hd hr hc he

theorem receiveObject_of_own (ho : r.claimant = s.station.ownId) :
    receiveObject p x s = evaluate x.service (objected p x r s) := by
  simp only [receiveObject]
  rw [if_neg (by simp [hd])]
  simp only [hr]
  rw [if_pos ⟨hc, he⟩, if_pos ho]
  rfl

theorem receiveObject_of_watched (ho : r.claimant ≠ s.station.ownId) :
    receiveObject p x s =
      evaluate x.service
        (changeEntry x.service (s.settled (objectedEntry p x (s.entry x.service))) s) := by
  simp only [receiveObject]
  rw [if_neg (by simp [hd])]
  simp only [hr]
  rw [if_pos ⟨hc, he⟩, if_neg ho]

/-- The objector becomes the owner for OWNER_LIVE alone, whoever claimed (R33). -/
theorem receiveObject_owner :
    ((receiveObject p x s).entry x.service).owner = (objectedEntry p x (s.entry x.service)).owner ∧
      ((receiveObject p x s).entry x.service).epoch = (objectedEntry p x (s.entry x.service)).epoch := by
  by_cases ho : r.claimant = s.station.ownId
  · rw [receiveObject_of_own hd hr hc he ho, evaluate_owner, evaluate_epoch, objected_entry, stamp_owner, stamp_epoch]
    exact ⟨rfl, rfl⟩
  · rw [receiveObject_of_watched hd hr hc he ho, evaluate_owner, evaluate_epoch, changeEntry_entry_same, stamp_owner,
      stamp_epoch]
    exact ⟨rfl, rfl⟩

end

/-- Settles O43: an own record that is named fails with the retry hold, which keeps the evaluation from claiming; a
watched one goes. -/
theorem objectEntries : Obligations.ObjectEntries := by
  intro p x s
  refine ⟨receiveObject_ignored, fun r hd hr hc he => ?_⟩
  have hstep := receiveObject_entryStep p x s
  obtain ⟨howner, hepoch⟩ := receiveObject_owner (p := p) hd hr hc he
  obtain ⟨hlive, hother⟩ := objectedEntry_owner p x (s.entry x.service)
  refine ⟨hstep.others, hstep.owner.onlyOwnership, ?_, ?_, fun ho => ?_, fun ho hp => ?_⟩
  · rw [howner, hepoch]
    exact hlive
  · rw [howner, hepoch]
    exact hother
  · have hentry := objected_entry p x r s
    have hown := receiveObject_of_own (p := p) hd hr hc he ho
    obtain ⟨htx, hkept⟩ := (evaluate_evaluation x.service (objected p x r s)).of_held_back (by
      rw [hentry, stamp_retryHold]
      simp)
    have hsettled := settledAs_settled s (objectedEntry p x (s.entry x.service))
    rw [hown]
    refine ⟨?_, ?_, ?_, fun hrec => ?_⟩
    · rw [hkept, hentry]
      exact State.SettledAs.of_fields hsettled (stamp_record ..) (stamp_owner ..) (stamp_state ..)
    · rw [hkept, hentry]
      exact stamp_retryHold ..
    · rw [htx]
      exact changeEntry_tx ..
    · rw [evaluate_host]
      exact objected_events p r hrec
  · have hwatched := receiveObject_of_watched (p := p) hd hr hc he ho
    rw [evaluate_of_not_active (by rw [(changeEntry_step ..).station]; exact hp)] at hwatched
    rw [hwatched, changeEntry_entry_same]
    refine ⟨State.SettledAs.of_fields (settledAs_settled s (objectedEntry p x (s.entry x.service))) (stamp_record ..)
      (stamp_owner ..) (stamp_state ..), ?_⟩
    rw [stamp_retryHold]
    exact objectedEntry_retryHold ..

end Sys2Proof.Machine

/-! Reconciliation from a STATUS (R60 to R64): service by service, each on its own entry, and Table 4-1 for an entry that
is not HELD. -/

namespace Sys2Proof.Machine

/-! ## The held list (R60) -/

/-- In a list that names no key twice the first pair with a key is the pair with that key. -/
theorem find_key {n : Service} {e : Epoch} {l : List (Service × Epoch)} (h : (l.map Prod.fst).Nodup) :
    (l.find? fun x => decide (x.1 = n)).map Prod.snd = some e ↔ (n, e) ∈ l := by
  induction l with
  | nil => simp
  | cons x l ih =>
    obtain ⟨hx, hl⟩ := List.nodup_cons.1 h
    by_cases hn : x.1 = n
    · have hnot : (n, e) ∉ l := fun hm => hx (hn ▸ List.mem_map_of_mem hm)
      simp [hn, hnot, Prod.ext_iff, eq_comm]
    · rw [List.find?_cons_of_neg (by simpa using hn), ih hl]
      simp [Prod.ext_iff, Ne.symm hn]

/-! ## Two states that agree at one service -/

/-- The states agree on entry `n`, DRVn and everything else that a decision about service `n` reads. -/
structure State.SameAt (n : Service) (s t : State) : Prop where
  entry : t.entry n = s.entry n
  drv : look t.oc.drv n = look s.oc.drv n
  timebase : t.timebase = s.timebase
  cond : t.cond = s.cond
  peers : t.peers = s.peers
  station : t.station = s.station

namespace State.SameAt
variable {n : Service} {s t : State}

protected theorem refl (n : Service) (s : State) : s.SameAt n s := ⟨rfl, rfl, rfl, rfl, rfl, rfl⟩

/-- An operation on another service is not seen at service `n`. -/
theorem other {m : Service} {u : State} (h : SameAt n s t) (k : EntryStep m t u) (hn : n ≠ m) : SameAt n s u :=
  ⟨(k.others n hn).1.trans h.entry, (k.others n hn).2.trans h.drv, k.owner.timebase.trans h.timebase,
    k.owner.cond.trans h.cond, k.owner.peers.trans h.peers, k.owner.station.trans h.station⟩

/-- Actions that leave the table alone, on either side. -/
theorem quiet {s' t' : State} (h : SameAt n s t) (ks : OwnerStep s s') (kt : OwnerStep t t') (hs : s'.oc = s.oc)
    (ht : t'.oc = t.oc) : SameAt n s' t' :=
  ⟨by rw [entry_of_oc hs, entry_of_oc ht, h.entry], by rw [hs, ht, h.drv],
    by rw [ks.timebase, kt.timebase, h.timebase], by rw [ks.cond, kt.cond, h.cond],
    by rw [ks.peers, kt.peers, h.peers], by rw [ks.station, kt.station, h.station]⟩

/-! What is read at service `n` -/

theorem condition (h : SameAt n s t) (m : Service) : t.condition m = s.condition m := by
  simp only [State.condition, h.cond]

theorem planOf (h : SameAt n s t) (m : Service) : t.planOf m = s.planOf m := by simp only [State.planOf, h.station]

theorem isLive (h : SameAt n s t) (p : StationId) : t.isLive p = s.isLive p := isLive_of_peers (by rw [h.peers]) p

theorem published (h : SameAt n s t) (p : StationId) (m : Service) : t.published p m = s.published p m := by
  simp only [State.published, State.peer, h.peers]

theorem ownByte (h : SameAt n s t) (m : Service) : t.ownByte m = s.ownByte m := by
  simp only [State.ownByte, h.condition, h.planOf]

theorem ownTuple (h : SameAt n s t) (m : Service) : t.ownTuple m = s.ownTuple m := by
  simp only [State.ownTuple, h.ownByte, h.station]

theorem ownCandidate (h : SameAt n s t) (m : Service) : t.ownCandidate m = s.ownCandidate m := by
  simp only [State.ownCandidate, h.station, h.condition, h.planOf]

theorem ownBest (h : SameAt n s t) (m : Service) : t.ownBest m = s.ownBest m := by
  simp only [State.ownBest, State.peerCandidate, h.ownCandidate, h.published, h.isLive, h.planOf, h.ownTuple]

theorem fitToClaim (h : SameAt n s t) (m : Service) : t.fitToClaim m = s.fitToClaim m := by
  simp only [State.fitToClaim, h.condition, h.peers]

theorem takeoverTest (h : SameAt n s t) (m : Service) (b : ServiceByte) : t.takeoverTest m b = s.takeoverTest m b := by
  simp only [State.takeoverTest, h.ownByte]

theorem revertiveTest (h : SameAt n s t) (m : Service) (b : ServiceByte) :
    t.revertiveTest m b = s.revertiveTest m b := by
  simp only [State.revertiveTest, h.ownBest, h.ownByte, h.planOf]

theorem settled (h : SameAt n s t) (e : ServiceEntry) : t.settled e = s.settled e := by
  have hl : t.isLive = s.isLive := funext h.isLive
  simp only [State.settled]
  cases e.owner with
  | none => rfl
  | some p => simp only [State.settledState, hl]

/-! What the operations write at service `n` -/

theorem post (h : SameAt n s t) (k : EventKind) (m : Option Service) (p : Option StationId) (e : Option Epoch)
    (d : Option Detail) : SameAt n (post k m p e d s) (Machine.post k m p e d t) :=
  h.quiet (post_step ..) (post_step ..) rfl rfl

theorem request (h : SameAt n s t) {f : TxQueue → TxQueue} (hf : ∀ q, q.Limited → (f q).Limited) :
    SameAt n (request f s) (Machine.request f t) :=
  h.quiet (request_step hf s) (request_step hf t) (request_oc f s) (request_oc f t)

theorem putEntry (h : SameAt n s t) (e : ServiceEntry) : SameAt n (putEntry n e s) (Machine.putEntry n e t) :=
  ⟨by rw [putEntry_entry_same, putEntry_entry_same, h.entry, h.timebase],
    by rw [putEntry_drv_same, putEntry_drv_same], h.timebase, h.cond, h.peers, h.station⟩

theorem changeEntry (h : SameAt n s t) (e : ServiceEntry) :
    SameAt n (changeEntry n e s) (Machine.changeEntry n e t) := by
  simp only [Machine.changeEntry, h.entry]
  split
  · exact (h.putEntry e).post ..
  · exact h.putEntry e

theorem removeWtr (h : SameAt n s t) : SameAt n (removeWtr n s) (Machine.removeWtr n t) := by
  simp only [Machine.removeWtr, h.entry]
  exact h.putEntry _

theorem startWtr (h : SameAt n s t) : SameAt n (startWtr n s) (Machine.startWtr n t) := by
  simp only [Machine.startWtr, h.entry, h.planOf]
  exact h.putEntry _

theorem queueOwnClaim (h : SameAt n s t) (e : Epoch) (m : ClaimMode) :
    SameAt n (queueOwnClaim n e m s) (Machine.queueOwnClaim n e m t) := by
  simp only [Machine.queueOwnClaim, requestClaim, State.ownRecord, h.entry, h.station, h.ownByte]
  exact (h.putEntry _).request fun _ hq => hq.addClaim n e

theorem leaveHeld (h : SameAt n s t) (o : Option StationId) (e : Option Epoch) (st : EntryState) (k : Option Nat)
    (r : DropReason) : SameAt n (leaveHeld n o e st k r s) (Machine.leaveHeld n o e st k r t) := by
  simp only [Machine.leaveHeld, h.entry]
  exact (h.putEntry _).post ..

/-! Evaluation and reconciliation at service `n` -/

theorem evaluateFree (h : SameAt n s t) : SameAt n (evaluateFree n s) (Machine.evaluateFree n t) := by
  simp only [Machine.evaluateFree, h.entry, h.ownBest, h.fitToClaim]
  split
  · exact h.queueOwnClaim ..
  · exact h.removeWtr

theorem evaluateRemote (h : SameAt n s t) (p : StationId) (b : ServiceByte) :
    SameAt n (evaluateRemote n p b s) (Machine.evaluateRemote n p b t) := by
  simp only [Machine.evaluateRemote, h.entry, h.ownBest, h.takeoverTest, h.revertiveTest]
  split
  · exact h.queueOwnClaim ..
  · split
    · split
      · exact h.startWtr
      · split
        · exact h.queueOwnClaim ..
        · exact h
    · exact h.removeWtr

theorem evaluateWatching (h : SameAt n s t) (r : ClaimRecord) :
    SameAt n (evaluateWatching n r s) (Machine.evaluateWatching n r t) := by
  simp only [Machine.evaluateWatching, h.entry, h.ownCandidate, h.ownTuple, h.fitToClaim]
  split
  · exact h.queueOwnClaim ..
  · exact h

theorem evaluate (h : SameAt n s t) : SameAt n (evaluate n s) (Machine.evaluate n t) := by
  simp only [Machine.evaluate, h.entry, h.station]
  split
  · exact h
  · split
    · exact h.evaluateFree
    · exact h.evaluateFree
    · split
      · rw [h.published]
        split
        · exact h.evaluateRemote ..
        · exact h.removeWtr
      · exact h.removeWtr
    · exact h.removeWtr
    · exact h
    · split
      · exact h.evaluateWatching _
      · exact h

theorem adopt (h : SameAt n s t) (p : StationId) (f : Epoch) : SameAt n (adopt n p f s) (Machine.adopt n p f t) := by
  simp only [Machine.adopt, h.entry, h.settled]
  exact h.changeEntry _

theorem settleDualHold (h : SameAt n s t) (p : StationId) (f : Epoch) (x : ClaimTuple) :
    SameAt n (settleDualHold n p f x s) (Machine.settleDualHold n p f x t) := by
  have hlost : SameAt n (supersede n p f s) (supersede n p f t) := h.leaveHeld ..
  have hwon : ∀ g, SameAt n (winDualHold n p g s) (winDualHold n p g t) := fun g => by
    simp only [winDualHold, h.entry]
    exact (h.request fun _ hq => hq.addStatus).post ..
  simp only [Machine.settleDualHold, h.entry, h.ownTuple]
  split
  · exact hlost
  · exact hwon _
  · split
    · exact hlost
    · exact hwon _

theorem reconcileRemote (h : SameAt n s t) (p q : StationId) (f : Epoch) (x : ClaimTuple) :
    SameAt n (reconcileRemote n p q f x s) (Machine.reconcileRemote n p q f x t) := by
  simp only [Machine.reconcileRemote, h.entry, h.published]
  split
  · exact h.adopt ..
  · exact h
  · split
    · split
      · exact h.adopt ..
      · exact h
    · exact h

theorem reconcile (h : SameAt n s t) (p : StationId) (b : StatusBody) :
    SameAt n (reconcile n p b s) (Machine.reconcile n p b t) := by
  simp only [Machine.reconcile, h.entry, h.isLive]
  split
  · exact h.putEntry _
  · split
    · split
      · split
        · exact h
        · exact h.changeEntry _
      · exact h.changeEntry _
    · split
      · exact h
      · split
        · split
          · exact h.settleDualHold ..
          · exact h
        · exact h.adopt ..
        · exact h.adopt ..
        · split
          · exact h.reconcileRemote ..
          · exact h
        · exact h
        · exact h

theorem statusService (h : SameAt n s t) (p : StationId) (b : StatusBody) (marks : Table Bool) :
    SameAt n (statusService p b marks n s) (Machine.statusService p b marks n t) := by
  have hrec : SameAt n (reconcileDefined n p b s) (reconcileDefined n p b t) := by
    simp only [reconcileDefined, h.planOf]
    split
    · exact h.reconcile p b
    · exact h
  simp only [Machine.statusService, h.entry, hrec.entry, h.isLive]
  split
  · exact hrec.evaluate
  · exact hrec

end State.SameAt

/-! ## Service by service (R14, R60, R64) -/

/-- One service of a STATUS, with the plan and the peer's state as they stood at its delivery. -/
def statusStep (p : StationId) (b : StatusBody) (marks : Table Bool) (s t : State) (n : Service) : State :=
  let u := if (s.planOf n).defined = true then reconcile n p b t else t
  if (u.entry n).state ≠ (t.entry n).state ∨ (u.entry n).owner ≠ (t.entry n).owner ∨
      (u.entry n).epoch ≠ (t.entry n).epoch ∨ (look marks n = true ∧ s.isLive p = true) then
    evaluate n u
  else u

theorem entryChanged_iff (a b : ServiceEntry) : entryChanged a b = true ↔
    b.state ≠ a.state ∨ b.owner ≠ a.owner ∨ b.epoch ≠ a.epoch := by
  rw [entryChanged, decide_eq_true_eq, ne_comm, ne_comm (a := a.owner), ne_comm (a := a.epoch)]

/-- The Ownership Controller changes neither the plan nor a peer's state, which so stand throughout the delivery. -/
theorem statusStep_eq {p : StationId} {b : StatusBody} {marks : Table Bool} {s t : State} (k : OwnerStep s t)
    (n : Service) : statusStep p b marks s t n = statusService p b marks n t := by
  simp only [statusStep, statusService, reconcileDefined, entryChanged_iff, k.planOf, k.isLive, or_assoc]

theorem foldl_statusStep {p : StationId} {b : StatusBody} {marks : Table Bool} {s : State} (ns : List Service) :
    ∀ t, OwnerStep s t →
      ns.foldl (statusStep p b marks s) t = ns.foldl (fun t n => statusService p b marks n t) t := by
  induction ns with
  | nil => exact fun _ _ => rfl
  | cons n ns ih =>
    intro t k
    simp only [List.foldl_cons, statusStep_eq k]
    exact ih _ (k.trans (statusService_step ..))

theorem receiveStatus_eq_foldl (p : StationId) (b : StatusBody) (marks : Table Bool) (s : State) :
    receiveStatus p b marks s = (List.finRange 16).foldl (statusStep p b marks s) s := by
  rw [foldl_statusStep _ s (.refl s)]
  rfl

/-- The states agree on entry `n` and DRVn. -/
structure State.SameEntry (n : Service) (s t : State) : Prop where
  entry : t.entry n = s.entry n
  drv : look t.oc.drv n = look s.oc.drv n

/-- Entry `n` and DRVn after a delivered STATUS are those that its own service leaves. -/
theorem receiveStatus_at (p : StationId) (b : StatusBody) (marks : Table Bool) (s : State) (n : Service) :
    (statusService p b marks n s).SameEntry n (receiveStatus p b marks s) :=
  forEach_entries (pre := fun t m => s.SameAt m t) (post := fun t m => (statusService p b marks m s).SameEntry m t)
    (statusService_entryStep p b marks) (fun _ _ _ _ k hm h => h.other k hm)
    (fun _ _ _ _ k hm h => ⟨(k.others _ hm).1.trans h.entry, (k.others _ hm).2.trans h.drv⟩)
    (fun _ _ h => ⟨(h.statusService p b marks).entry, (h.statusService p b marks).drv⟩) (fun m => .refl m s) n

/-- Outside ACTIVE no evaluation follows (R15). -/
theorem statusService_of_not_active {n : Service} {p : StationId} {b : StatusBody} {marks : Table Bool} {s : State}
    (hp : s.station.phase ≠ .active) : statusService p b marks n s = reconcileDefined n p b s := by
  simp only [statusService]
  rw [evaluate_of_not_active (by rw [(reconcileDefined_step ..).station]; exact hp), ite_self]

/-! ## Table 4-1 for an entry that is not HELD -/

section
variable {n : Service} {p : StationId} {b : StatusBody} {s : State}

theorem reconcile_of_record {r : ClaimRecord} (hr : (s.entry n).record = some r) :
    reconcile n p b s = putEntry n { s.entry n with record := some (r.hear p (b.listing n)) } s := by
  simp only [reconcile, hr]

/-- The target's STATUS alone sets the holder listing (R3). -/
theorem hear_of_target {r : ClaimRecord} (h : r.mode = .takeover p) (l : Option Epoch) :
    r.hear p l = { r with listing := if l = none then .notListed else .listed } := by
  unfold ClaimRecord.hear
  rw [if_pos (by simp [ClaimMode.targets, h])]

theorem hear_of_other {r : ClaimRecord} (h : r.mode ≠ .takeover p) (l : Option Epoch) : r.hear p l = r := by
  unfold ClaimRecord.hear
  rw [if_neg (by simp [ClaimMode.targets, h])]

theorem reconcile_entry_of_other {r : ClaimRecord} (hr : (s.entry n).record = some r) (h : r.mode ≠ .takeover p) :
    (reconcile n p b s).entry n = s.entry n := by
  rw [reconcile_of_record hr, hear_of_other h, ← hr, putEntry_entry_same]
  exact stamp_self ..

theorem adopt_entry (n : Service) (p : StationId) (f : Epoch) (s : State) :
    ((adopt n p f s).entry n).owner = some p ∧ ((adopt n p f s).entry n).epoch = some f ∧
      s.SettledAs ((adopt n p f s).entry n) := by
  rw [adopt, changeEntry_entry_same]
  exact ⟨stamp_owner .., stamp_epoch ..,
    State.SettledAs.of_fields (settledAs_settled s _) (stamp_record ..) (stamp_owner ..) (stamp_state ..)⟩

section
variable (hr : (s.entry n).record = none)
include hr

/-- The owner is the authority on its own holding (R61). -/
theorem reconcile_of_owner (ho : (s.entry n).owner = some p) :
    (b.listing n = none → reconcile n p b s = changeEntry n { s.entry n with owner := none, state := .vacant } s) ∧
      ∀ f, b.listing n = some f →
        ((s.entry n).epoch = some f → reconcile n p b s = s) ∧
        ((s.entry n).epoch ≠ some f → reconcile n p b s = changeEntry n { s.entry n with epoch := some f } s) := by
  simp only [reconcile, hr, if_pos ho]
  refine ⟨fun hl => by simp only [hl], fun f hl => ?_⟩
  simp only [hl]
  exact ⟨fun he => if_pos he, fun he => if_neg he⟩

theorem reconcile_unlisted (ho : (s.entry n).owner ≠ some p) (hl : b.listing n = none) : reconcile n p b s = s := by
  simp only [reconcile, hr, if_neg ho, hl]

/-- A listing peer fills a VACANT or ORPHANED entry (R62). -/
theorem reconcile_free {f : Epoch} (ho : (s.entry n).owner ≠ some p) (hl : b.listing n = some f)
    (hs : (s.entry n).state = .vacant ∨ (s.entry n).state = .orphaned) : reconcile n p b s = adopt n p f s := by
  rcases hs with hs | hs <;> simp only [reconcile, hr, if_neg ho, hl, hs]

/-- A REMOTE entry of another owner is decided by epoch, then by tuple (R63). -/
theorem reconcile_remote {f : Epoch} {q : StationId} (ho : (s.entry n).owner ≠ some p) (hl : b.listing n = some f)
    (hs : (s.entry n).state = .remote) (hq : (s.entry n).owner = some q) :
    reconcile n p b s = reconcileRemote n p q f ((look b.services n).tuple p) s := by
  simp only [reconcile, hr, if_neg ho, hl, hs]
  simp only [hq]

end

theorem reconcileRemote_tx (n : Service) (p q : StationId) (f : Epoch) (x : ClaimTuple) (s : State) :
    (reconcileRemote n p q f x s).tx = s.tx := by
  simp only [reconcileRemote, adopt]
  split
  · exact changeEntry_tx ..
  · rfl
  · split
    · split
      · exact changeEntry_tx ..
      · rfl
    · rfl

/-- Reconciling an entry that is not HELD asks nothing of the Transmitter (R60 to R63). -/
theorem reconcile_tx (hs : (s.entry n).state ≠ .held) : (reconcile n p b s).tx = s.tx := by
  simp only [reconcile]
  split
  · rfl
  · split
    · split
      · split
        · rfl
        · exact changeEntry_tx ..
      · exact changeEntry_tx ..
    · split
      · rfl
      · split
        · next hh => exact absurd hh hs
        · exact changeEntry_tx ..
        · exact changeEntry_tx ..
        · split
          · exact reconcileRemote_tx ..
          · rfl
        · rfl
        · rfl

/-- The owner's STATUS: its holding ends when it lists it no more, and otherwise takes the listed epoch (R61). -/
theorem reconcile_owner_entry (hs : (s.entry n).state ≠ .held) (hr : (s.entry n).record = none)
    (ho : (s.entry n).owner = some p) :
    (b.listing n = none →
      ((reconcile n p b s).entry n).owner = none ∧ ((reconcile n p b s).entry n).state = .vacant ∧
        ((reconcile n p b s).entry n).epoch = (s.entry n).epoch) ∧
    (∀ f, b.listing n = some f →
      ((reconcile n p b s).entry n).owner = some p ∧
        ((reconcile n p b s).entry n).state = (s.entry n).state ∧
        ((reconcile n p b s).entry n).epoch = some f ∧
        ((s.entry n).epoch = some f → reconcile n p b s = s) ∧
        ((s.entry n).epoch ≠ some f → s.CanRecord 1 →
          (reconcile n p b s).host.events =
            s.host.events ++ [s.event .ownerChanged (some n) (some p) (some f) none])) := by
  obtain ⟨hnone, hsome⟩ := reconcile_of_owner (p := p) (b := b) hr ho
  refine ⟨fun hl => ?_, fun f hl => ?_⟩
  · rw [hnone hl, changeEntry_entry_same]
    exact ⟨stamp_owner .., stamp_state .., stamp_epoch ..⟩
  · obtain ⟨hsame, hnew⟩ := hsome f hl
    by_cases he : (s.entry n).epoch = some f
    · rw [hsame he]
      exact ⟨ho, rfl, he, fun _ => rfl, fun hn => absurd he hn⟩
    · rw [hnew he, changeEntry_entry_same, stamp_owner, stamp_state, stamp_epoch]
      refine ⟨ho, rfl, rfl, fun hn => absurd hn he, fun _ hrec => ?_⟩
      rw [changeEntry_of_changed (e := { s.entry n with epoch := some f }) hs hs (.inr he)]
      dsimp only
      rw [ho]
      exact State.CanRecord.post_events (k := 0) _ _ _ _ _ hrec

/-- A REMOTE entry of `q` that `p` lists: the newer epoch wins, and of equal ones the better tuple (R63). -/
theorem reconcileRemote_cases {q : StationId} {f : Epoch} {x : ClaimTuple} :
    (compareEpochs (some f) (s.entry n).epoch = .newer → reconcileRemote n p q f x s = adopt n p f s) ∧
    (compareEpochs (some f) (s.entry n).epoch = .older → reconcileRemote n p q f x s = s) ∧
    ∀ y, s.published q n = some y → (s.entry n).epoch = some f →
      (x.better (y.tuple q) = false → reconcileRemote n p q f x s = s) ∧
      (x.better (y.tuple q) = true → reconcileRemote n p q f x s = adopt n p f s) := by
  refine ⟨fun h => by simp only [reconcileRemote, h], fun h => by simp only [reconcileRemote, h], fun y hy he => ?_⟩
  simp only [reconcileRemote, he, compareEpochs_self, hy]
  exact ⟨fun h => if_neg (by simp [h]), fun h => if_pos h⟩

end

/-- Settles O44: the held list by its keys; service by service, since no service's part is seen at another's entry; and
the rows of Table 4-1 in turn. -/
theorem reconciliationFromStatus : Obligations.ReconciliationFromStatus := by
  refine ⟨fun b n e h => find_key h, fun p b marks s => ?_, fun n p b s hs => ?_⟩
  · intro service
    have hservice : service = statusStep p b marks s := rfl
    clear_value service
    subst hservice
    refine ⟨receiveStatus_eq_foldl p b marks s, (receiveStatus_step p b marks s).onlyOwnership, fun n => ?_⟩
    obtain ⟨hentry, hdrv⟩ := receiveStatus_at p b marks s n
    rw [statusStep_eq (.refl s)]
    refine ⟨hentry, hdrv, fun hp hd => ?_, fun hp hd => ?_⟩
    · rw [hentry, statusService_of_not_active hp, reconcileDefined, if_pos hd]
    · rw [hentry, statusService_of_not_active hp, reconcileDefined, if_neg (by simp [hd])]
  · have hentry := reconcile_entryStep n p b s
    refine ⟨hentry.others, hentry.owner.onlyOwnership, reconcile_tx hs, fun r hr => ⟨fun hm => ?_, fun hm => ?_⟩,
      fun hr => ⟨fun ho => reconcile_owner_entry hs hr ho, fun ho => ⟨fun hl => reconcile_unlisted hr ho hl,
        fun f hl hcase => ?_, fun f q y hl hrem hq hy => ?_⟩⟩⟩
    · rw [reconcile_of_record hr, hear_of_target hm]
    · exact reconcile_entry_of_other hr hm
    · have hadopt : reconcile n p b s = adopt n p f s := by
        rcases hcase with hfree | hfree | ⟨hrem, hown, hnew⟩
        · exact reconcile_free hr ho hl (.inl hfree)
        · exact reconcile_free hr ho hl (.inr hfree)
        · obtain ⟨q, hq⟩ := Option.ne_none_iff_exists'.1 hown
          exact (reconcile_remote hr ho hl hrem hq).trans (reconcileRemote_cases.1 hnew)
      rw [hadopt]
      exact adopt_entry n p f s
    · rw [reconcile_remote hr ho hl hrem hq]
      obtain ⟨-, holder, hequal⟩ := reconcileRemote_cases (p := p) (q := q) (f := f) (s := s) (n := n)
        (x := (look b.services n).tuple p)
      refine ⟨holder, fun he => ⟨(hequal y hy he).1, fun ht => ?_⟩⟩
      rw [(hequal y hy he).2 ht]
      exact adopt_entry n p f s

end Sys2Proof.Machine

/-! The ranges of timers and counts (R3, R4, R76, R91, R93, R108, R109, R118, R141, R143), kept by the Ownership
Controller, the Condition Monitor, the Peer Monitor and the Station Controller. -/

namespace Sys2Proof.Machine

/-! ## The ranges, block by block -/

/-- The condition timer is in range (R76). -/
def ServiceCondition.InRange (c : ServiceCondition) : Prop := ∀ k ∈ c.timer, k ≤ 2550

/-- The silence timer is in range (R91). -/
def PeerEntry.SilenceInRange (e : PeerEntry) : Prop := ∀ k ∈ e.silence, k ≤ 20

/-- The silence timer and the in-order count are in range (R91, R93). -/
def PeerEntry.InRange (e : PeerEntry) : Prop := e.SilenceInRange ∧ e.inOrder ≤ 2

/-- The station timers are in range (R108, R109). -/
def StationController.InRange (c : StationController) : Prop :=
  (∀ k ∈ c.listenTimer, k ≤ 60) ∧ ∀ k ∈ c.statusTimer, k ≤ 4

/-- The empty count and the assembled content are in range (R118, R122). -/
def Receiver.InRange (r : Receiver) : Prop := r.emptyCount ≤ 12 ∧ r.assembled.length ≤ 698

/-- The deaf count and the back-off are in range (R141, R143). -/
def Transmitter.InRange (x : Transmitter) : Prop := x.deafCount ≤ 3 ∧ ∀ k ∈ x.backOff, k ≤ 512

/-- Every block is in range, where `ok` is what the Peer Table entries are held to. -/
structure State.Ranged (ok : StationId → PeerEntry → Prop) (s : State) : Prop where
  entries : ∀ n, (s.entry n).InRange
  conds : ∀ n, (s.condition n).InRange
  peers : ∀ p, ok p (s.peer p)
  station : s.station.InRange
  rx : s.rx.InRange
  tx : s.tx.InRange

theorem inRange_iff (s : State) : s.InRange ↔ s.Ranged fun _ => PeerEntry.InRange := by
  constructor
  · rintro ⟨hn, hp, hl, hst, he, ha, hd, hb⟩
    exact ⟨fun n => ⟨(hn n).1, (hn n).2.1, (hn n).2.2.1⟩, fun n => (hn n).2.2.2, hp, ⟨hl, hst⟩, ⟨he, ha⟩, ⟨hd, hb⟩⟩
  · rintro ⟨hn, hc, hp, ⟨hl, hst⟩, ⟨he, ha⟩, ⟨hd, hb⟩⟩
    exact ⟨fun n => ⟨(hn n).1, (hn n).2.1, (hn n).2.2, hc n⟩, hp, hl, hst, he, ha, hd, hb⟩

/-! ## Transfer of the ranges -/

section
variable {ok : StationId → PeerEntry → Prop} {s t : State}

/-- The ranges read six blocks alone. -/
theorem State.Ranged.congr (h : s.Ranged ok) (ho : t.oc = s.oc) (hc : t.cond = s.cond)
    (hp : t.peers.entries = s.peers.entries) (hs : t.station = s.station) (hr : t.rx = s.rx) (hx : t.tx = s.tx) :
    t.Ranged ok :=
  ⟨fun n => by rw [entry_of_oc ho]; exact h.entries n, fun n => by simp only [State.condition, hc]; exact h.conds n,
    fun p => by simp only [State.peer, hp]; exact h.peers p, by rw [hs]; exact h.station, by rw [hr]; exact h.rx,
    by rw [hx]; exact h.tx⟩

theorem State.Ranged.mono {ok' : StationId → PeerEntry → Prop} (h : s.Ranged ok')
    (hok : ∀ p, ok' p (s.peer p) → ok p (s.peer p)) : s.Ranged ok :=
  { h with peers := fun p => hok p (h.peers p) }

/-- An action of the Ownership Controller need only keep its own table in range. -/
theorem OwnerStep.ranged (k : OwnerStep s t) (he : ∀ n, (t.entry n).InRange) (h : s.Ranged ok) : t.Ranged ok :=
  ⟨he, fun n => by rw [k.condition]; exact h.conds n, fun p => by rw [k.peer]; exact h.peers p,
    by rw [k.station]; exact h.station, by rw [k.rx]; exact h.rx, by rw [k.tx]; exact h.tx⟩

theorem EntryStep.ranged {n : Service} (k : EntryStep n s t) (h : s.Ranged ok) : t.Ranged ok :=
  k.owner.ranged (k.inRange h.entries) h

theorem State.Ranged.quiet (h : s.Ranged ok) (k : OwnerStep s t) (ho : t.oc = s.oc) : t.Ranged ok :=
  k.ranged (fun n => by rw [entry_of_oc ho]; exact h.entries n) h

theorem withHost_ranged (x : HostPort) (h : s.Ranged ok) : (s.withHost x).Ranged ok := h.congr rfl rfl rfl rfl rfl rfl

theorem withStation_ranged {c : StationController} (hc : c.InRange) (h : s.Ranged ok) : (s.withStation c).Ranged ok :=
  { h with station := hc }

theorem withRx_ranged {x : Receiver} (hx : x.InRange) (h : s.Ranged ok) : (s.withRx x).Ranged ok := { h with rx := hx }

theorem withTx_ranged {x : Transmitter} (hx : x.InRange) (h : s.Ranged ok) : (s.withTx x).Ranged ok :=
  { h with tx := hx }

theorem post_ranged (k : EventKind) (n : Option Service) (p : Option StationId) (e : Option Epoch) (d : Option Detail)
    (h : s.Ranged ok) : (post k n p e d s).Ranged ok := withHost_ranged _ h

theorem setResult_ranged (r : CommandResult) (h : s.Ranged ok) : (setResult r s).Ranged ok := withHost_ranged _ h

theorem takeNext_ranged (h : s.Ranged ok) : (takeNext s).Ranged ok := h.quiet (takeNext_step s) (takeNext_oc s)

theorem enqueue_ranged (f : TxQueue → TxQueue) (h : s.Ranged ok) : (enqueue f s).Ranged ok := by
  rw [enqueue_fields]
  exact withTx_ranged h.tx h

theorem requestStatus_ranged (h : s.Ranged ok) : (requestStatus s).Ranged ok :=
  (requestStatus_entryStep 0 s).ranged h

/-! ## The Ownership Controller -/

/-- An operation on each service keeps the ranges. -/
theorem forEach_ranged {f : Service → State → State} (hf : ∀ n s, EntryStep n s (f n s)) (h : s.Ranged ok) :
    (forEach f s).Ranged ok := forEach_keeps (P := State.Ranged ok) (fun n s => (hf n s).ranged) h

theorem evaluateAll_ranged (h : s.Ranged ok) : (evaluateAll s).Ranged ok := forEach_ranged evaluate_entryStep h

theorem reportPeerState_ranged (p : StationId) (h : s.Ranged ok) : (reportPeerState p s).Ranged ok :=
  evaluateAll_ranged (forEach_ranged (settleForPeer_entryStep p) h)

theorem reportDeparture_ranged (p : StationId) (h : s.Ranged ok) : (reportDeparture p s).Ranged ok :=
  evaluateAll_ranged (forEach_ranged (departEntry_entryStep p) h)

theorem leaveEntries_ranged (ns : List Service) (h : s.Ranged ok) : (leaveEntries ns s).1.Ranged ok := by
  rw [leaveEntries_fst]
  induction ns generalizing s with
  | nil => exact h
  | cons n ns ih => exact ih ((leaveEntry_entryStep n s).ranged h)

/-- The entries of a list frame, one after another, keep the ranges. -/
theorem foldl_ranged {α : Type} {n : α → Service} {f : α → State → State} (hf : ∀ x s, EntryStep (n x) s (f x s))
    (xs : List α) (h : s.Ranged ok) : (xs.foldl (fun s x => f x s) s).Ranged ok := by
  induction xs generalizing s with
  | nil => exact h
  | cons x xs ih => exact ih ((hf x s).ranged h)

theorem deliver_ranged (p : StationId) (body : FrameBody) (marks : Table Bool) (h : s.Ranged ok) :
    (deliver p body marks s).Ranged ok := by
  cases body with
  | status b =>
    simp only [deliver, receiveStatus]
    exact forEach_ranged (statusService_entryStep p b marks) h
  | claim c =>
    simp only [deliver]
    exact (receiveClaim_entryStep p c s).ranged h
  | release es =>
    simp only [deliver]
    exact foldl_ranged (n := ReleaseEntry.service) (f := receiveRelease p) (receiveRelease_entryStep p) es h
  | object es =>
    simp only [deliver]
    exact foldl_ranged (n := ObjectEntry.service) (f := receiveObject p) (receiveObject_entryStep p) es h

/-! ## The Condition Monitor (R76 to R81) -/

theorem putCondition_ranged {n : Service} {c : ServiceCondition} (hc : c.InRange) (h : s.Ranged ok) :
    (putCondition n c s).Ranged ok :=
  { h with
    conds := fun m => by
      rw [putCondition_condition]
      split
      · exact hc
      · exact h.conds m }

theorem reportStatus_ranged (h : s.Ranged ok) : (reportStatus s).Ranged ok := by
  unfold reportStatus
  split
  · exact enqueue_ranged _ h
  · exact h

theorem takeReport_ranged (n : Service) (old : ServiceCondition) (h : s.Ranged ok) : (takeReport n old s).Ranged ok :=
  reportStatus_ranged ((report_entryStep n old s).ranged h)

theorem postGrade_ranged (n : Service) (g : Grade) (h : s.Ranged ok) : (postGrade n g s).Ranged ok :=
  h.quiet (postGrade_step ..) (postGrade_oc ..)

theorem updateCondition_ranged {n : Service} {c : ServiceCondition} (hc : c.InRange) (h : s.Ranged ok) :
    (updateCondition n c s).Ranged ok := by
  simp only [updateCondition, reform_putCondition]
  have hput : (putCondition n (c.formed (s.planOf n)) s).Ranged ok := putCondition_ranged hc h
  split
  · exact hput
  · exact takeReport_ranged _ _ (postGrade_ranged _ _ hput)

theorem ServiceCondition.InRange.of_none {c : ServiceCondition} (h : c.timer = none) : c.InRange := by
  unfold ServiceCondition.InRange
  rw [h]
  simp

theorem ServiceCondition.InRange.of_some {c : ServiceCondition} {k : Nat} (h : c.timer = some k) (hk : k ≤ 2550) :
    c.InRange := by
  unfold ServiceCondition.InRange
  rw [h]
  rintro _ ⟨⟩
  exact hk

theorem debounce_ranged (n : Service) (h : s.Ranged ok) : (debounce n s).Ranged ok :=
  takeNext_ranged (updateCondition_ranged (.of_none rfl) h)

theorem listenEntry_ranged (n : Service) (h : s.Ranged ok) : (listenEntry n s).Ranged ok :=
  updateCondition_ranged (.of_none rfl) h

/-- The hold-off is a byte of steps of 10 ms (R104). -/
theorem holdOffMs_le (p : PlanRecord) : p.holdOffMs ≤ 2550 := by
  have := p.holdOff.isLt
  unfold PlanRecord.holdOffMs
  omega

theorem rawChanged_ranged (n : Service) (h : s.Ranged ok) : (rawChanged n s).Ranged ok := by
  have hh := holdOffMs_le (s.planOf n)
  simp only [rawChanged]
  split
  · exact putCondition_ranged (.of_none rfl) h
  · split
    · split
      · exact debounce_ranged n h
      · exact putCondition_ranged (.of_some rfl hh) h
    · exact putCondition_ranged (.of_some rfl (Nat.max_le.2 ⟨hh, by decide⟩)) h

theorem setPins_ranged (n : Service) (sf sd : Bool) (h : s.Ranged ok) : (setPins n sf sd s).Ranged ok := by
  have hput : (putCondition n { s.condition n with sf := sf, sd := sd, raw := rawOf sf sd } s).Ranged ok :=
    putCondition_ranged (h.conds n :) h
  simp only [setPins]
  split
  · exact rawChanged_ranged n hput
  · exact hput

theorem conditionRunsOut_ranged (n : Service) (h : s.Ranged ok) : (conditionRunsOut n s).Ranged ok := by
  unfold conditionRunsOut
  split
  · exact debounce_ranged n h
  · exact h

theorem operatorRequest_ranged (r : Request) (b : Bool) (h : s.Ranged ok) : (operatorRequest r b s).Ranged ok := by
  unfold operatorRequest
  split
  · exact takeNext_ranged (updateCondition_ranged (h.conds _ :) (setResult_ranged _ h))
  · exact setResult_ranged _ h

/-! ## The Peer Monitor (R88 to R96) -/

theorem refreshIsolated_ranged (j : Option StationId) (h : s.Ranged ok) : (refreshIsolated j s).Ranged ok := by
  have hflag : s.refreshed.Ranged ok := h.congr rfl rfl rfl rfl rfl rfl
  exact hflag.quiet (refreshIsolated_step j s) (refreshIsolated_oc j s)

theorem reportFlag_ranged (b : Bool) (h : s.Ranged ok) : (reportFlag b s).Ranged ok := by
  unfold reportFlag
  split
  · exact h
  · exact evaluateAll_ranged h

theorem putPeer_ranged {p : StationId} {e : PeerEntry} {ok' : StationId → PeerEntry → Prop} (he : ok p e)
    (hok : ∀ q, q ≠ p → ok' q (s.peer q) → ok q (s.peer q)) (h : s.Ranged ok') : (putPeer p e s).Ranged ok :=
  { h with
    peers := fun q => by
      rw [putPeer_peer]
      split
      · next hq => exact hq ▸ he
      · next hq => exact hok q hq (h.peers q) }

end

/-- Every Peer Table entry is in range. -/
abbrev State.AllRanged (s : State) : Prop := s.Ranged fun _ => PeerEntry.InRange

/-- Every entry is in range but for the in-order count of peer `p`, which the LEAVING STATUS `body` may raise on its way
to a departure (R93, R94; log entry 14). -/
def leavingOk (p : StationId) (body : FrameBody) (q : StationId) (e : PeerEntry) : Prop :=
  e.SilenceInRange ∧ (e.inOrder ≤ 2 ∨ (q = p ∧ body.isLeaving = true))

section
variable {s : State}

theorem PeerEntry.SilenceInRange.of_none {e : PeerEntry} (h : e.silence = none) : e.SilenceInRange := by
  unfold PeerEntry.SilenceInRange
  rw [h]
  simp

theorem PeerEntry.SilenceInRange.of_restart {e : PeerEntry} (h : e.silence = some Config.silence) :
    e.SilenceInRange := by
  unfold PeerEntry.SilenceInRange
  rw [h]
  rintro _ ⟨⟩
  exact le_refl 20

/-- An entry of the Peer Table in range takes the place of one. -/
theorem putPeer_allRanged {p : StationId} {e : PeerEntry} (he : e.InRange) (h : s.AllRanged) :
    (putPeer p e s).AllRanged := putPeer_ranged he (fun _ _ => id) h

theorem takeMismatch_ranged (p : StationId) (h : s.AllRanged) : (takeMismatch p s).AllRanged := by
  unfold takeMismatch
  split
  · exact putPeer_allRanged ⟨.of_restart rfl, (h.peers p).2⟩ h
  · refine reportFlag_ranged _ (reportPeerState_ranged p (refreshIsolated_ranged none (post_ranged _ _ _ _ _ ?_)))
    exact putPeer_allRanged ⟨.of_restart rfl, Nat.zero_le _⟩ h

theorem arrive_ranged (p : StationId) (body : FrameBody) (h : s.AllRanged) : (arrive p body s).AllRanged := by
  have hput :
      (putPeer p { s.peer p with state := .arriving, inOrder := 0, silence := some Config.silence } s).AllRanged :=
    putPeer_allRanged ⟨.of_restart rfl, Nat.zero_le _⟩ h
  simp only [arrive]
  split
  · exact requestStatus_ranged hput
  · exact hput

theorem becomeLive_ranged (p : StationId) (h : s.AllRanged) : (becomeLive p s).AllRanged :=
  refreshIsolated_ranged _ (post_ranged _ _ _ _ _ (putPeer_allRanged ⟨(h.peers p).1, le_refl 2⟩ h))

theorem leavingOk_of_inRange {p q : StationId} {body : FrameBody} {e : PeerEntry} (h : e.InRange) :
    leavingOk p body q e := ⟨h.1, .inl h.2⟩

/-- The in-order count stays below 2 unless the peer becomes LIVE, or leaves (R93, R94). -/
theorem countInOrder_le {e : PeerEntry} {body : FrameBody} {follows : Bool} (h : e.reachesLive body follows = false) :
    e.countInOrder body.isStatus follows ≤ 2 ∨ body.isLeaving = true := by
  simp only [PeerEntry.reachesLive, Bool.and_eq_false_iff, decide_eq_false_iff_not, Bool.not_eq_false'] at h
  exact h.imp (fun hc => by omega) id

theorem stateStep_ranged (p : StationId) (body : FrameBody) (follows : Bool) (h : s.AllRanged) :
    (stateStep p body follows s).Ranged (leavingOk p body) := by
  have hweak : ∀ {t : State}, t.AllRanged → t.Ranged (leavingOk p body) := fun ht =>
    ht.mono fun _ => leavingOk_of_inRange
  simp only [stateStep]
  split
  · split
    · exact hweak (becomeLive_ranged p h)
    · next hr =>
      refine putPeer_ranged ⟨(h.peers p).1, ?_⟩ (fun _ _ => leavingOk_of_inRange) h
      exact (countInOrder_le (by simpa using hr)).imp id fun hl => ⟨rfl, hl⟩
  · exact hweak h
  · exact hweak h
  · exact hweak (arrive_ranged p body h)
  · exact hweak (arrive_ranged p body h)
  · exact hweak (arrive_ranged p body h)

theorem replaceData_ranged {ok : StationId → PeerEntry → Prop} (p : StationId) (body : FrameBody)
    (hok : ∀ b, ok p (s.peer p) → ok p { s.peer p with data := some b }) (h : s.Ranged ok) :
    (replaceData p body s).Ranged ok := by
  cases body with
  | status b => exact putPeer_ranged (hok b (h.peers p)) (fun _ _ => id) h
  | claim c => exact h
  | release es => exact h
  | object es => exact h

theorem reportChange_ranged {ok : StationId → PeerEntry → Prop} (p : StationId) (c b : Bool) (h : s.Ranged ok) :
    (reportChange p c b s).Ranged ok := by
  unfold reportChange
  split
  · exact reportFlag_ranged _ (reportPeerState_ranged p h)
  · exact h

/-- A departure brings the in-order count back to 0 (R94). -/
theorem departIfLeaving_ranged (p : StationId) (body : FrameBody) (h : s.Ranged (leavingOk p body)) :
    (departIfLeaving p body s).AllRanged := by
  unfold departIfLeaving
  split
  · refine reportFlag_ranged _ (reportDeparture_ranged p (refreshIsolated_ranged none (post_ranged _ _ _ _ _ ?_)))
    refine putPeer_ranged ⟨.of_none rfl, Nat.zero_le _⟩ (fun q hq hk => ⟨hk.1, hk.2.resolve_right fun hl => hq hl.1⟩) h
  · next hl => exact h.mono fun q hk => ⟨hk.1, hk.2.resolve_right fun hx => hl hx.2⟩

theorem takeData_ranged (p : StationId) (body : FrameBody) (follows : Bool) (h : s.AllRanged) :
    (takeData p body follows s).AllRanged :=
  departIfLeaving_ranged p body
    (deliver_ranged _ _ _
      (reportChange_ranged _ _ _ (replaceData_ranged p body (fun _ hk => hk) (stateStep_ranged p body follows h))))

theorem restartSilence_inRange {e : PeerEntry} (h : e.InRange) : e.restartSilence.InRange := by
  unfold PeerEntry.restartSilence
  split
  · exact ⟨.of_restart rfl, h.2⟩
  · exact ⟨.of_restart rfl, h.2⟩
  · exact ⟨.of_restart rfl, h.2⟩
  · exact h
  · exact h
  · exact h

theorem takeFrame_ranged (f : Frame) (h : s.AllRanged) : (takeFrame f s).AllRanged := by
  have hseen : (putPeer f.sender { s.peer f.sender with checksumSeen := some f.checksum } s).AllRanged :=
    putPeer_allRanged (h.peers f.sender :) h
  simp only [takeFrame]
  split
  · exact takeMismatch_ranged _ hseen
  · split
    · exact putPeer_allRanged (hseen.peers f.sender :) hseen
    · exact takeData_ranged _ _ _ (putPeer_allRanged (restartSilence_inRange (hseen.peers f.sender :)) hseen)

theorem becomeSilent_ranged (p : StationId) (a : Bool) (h : s.AllRanged) : (becomeSilent p a s).AllRanged := by
  have hput : (putPeer p { s.peer p with state := .silent, inOrder := 0, silence := none } s).AllRanged :=
    putPeer_allRanged ⟨.of_none rfl, Nat.zero_le _⟩ h
  refine reportFlag_ranged _ (reportPeerState_ranged p (refreshIsolated_ranged none ?_))
  unfold announceSilence
  split
  · exact post_ranged _ _ _ _ _ hput
  · exact hput

theorem peerTimerRunsOut_ranged (p : StationId) (h : s.AllRanged) : (peerTimerRunsOut p s).AllRanged := by
  unfold peerTimerRunsOut silenceRunsOut
  split
  · split
    · exact becomeSilent_ranged p true h
    · exact becomeSilent_ranged p false h
    · exact reportPeerState_ranged p (putPeer_allRanged ⟨.of_none rfl, Nat.zero_le _⟩ h)
    · exact h
    · exact h
    · exact h
  · exact h

end

/-! ## The Station Controller (R106 to R117) -/

section
variable {ok : StationId → PeerEntry → Prop} {s : State}

theorem setPhase_ranged (p : Phase) (h : s.Ranged ok) : (setPhase p s).Ranged ok :=
  withStation_ranged (h.station :) h

theorem stopTimers_ranged (h : s.Ranged ok) : (stopTimers s).Ranged ok :=
  withStation_ranged ⟨by simp, by simp⟩ h

theorem idled_inRange (r : Receiver) (b : Bool) : (r.idled b).InRange := ⟨Nat.zero_le _, Nat.zero_le _⟩

theorem startStation_ranged (h : s.Ranged ok) : (startStation s).Ranged ok := by
  refine post_ranged _ _ _ _ _ (takeNext_ranged (forEach_keeps (fun n _ => listenEntry_ranged n) (enqueue_ranged _ ?_)))
  refine withRx_ranged (idled_inRange ..) (withStation_ranged ⟨?_, ?_⟩ h)
  · rintro _ ⟨⟩
    exact le_refl 60
  · rintro _ ⟨⟩
    exact le_refl 4

theorem listenRunsOut_ranged (h : s.Ranged ok) : (listenRunsOut s).Ranged ok := by
  unfold listenRunsOut
  split
  · refine post_ranged _ _ _ _ _ (reportFlag_ranged _ (evaluateAll_ranged (refreshIsolated_ranged none ?_)))
    exact setPhase_ranged _ (withStation_ranged ⟨by simp, h.station.2⟩ h)
  · exact h

theorem statusRunsOut_ranged (h : s.Ranged ok) : (statusRunsOut s).Ranged ok := by
  unfold statusRunsOut
  split
  · refine requestStatus_ranged (withStation_ranged ⟨h.station.1, ?_⟩ h)
    rintro _ ⟨⟩
    exact le_refl 4
  · exact h

theorem leaveTransmitter_ranged (xs : List ReleaseEntry) (h : s.Ranged ok) : (leaveTransmitter xs s).Ranged ok := by
  refine takeNext_ranged (withTx_ranged ?_ h)
  split
  · split
    · exact h.tx
    · exact h.tx
  · exact h.tx

theorem leaveStation_ranged (h : s.Ranged ok) : (leaveStation s).Ranged ok := by
  have ht := leaveEntries_ranged allSixteen (stopTimers_ranged (setPhase_ranged .leaving h))
  unfold leaveStation changePhase leaveBlocks
  generalize leaveEntries allSixteen (stopTimers (setPhase .leaving s)) = r at ht
  exact post_ranged _ _ _ _ _ (refreshIsolated_ranged none (leaveTransmitter_ranged r.2 ht))

theorem muteTransmitter_ranged (h : s.Ranged ok) : (muteTransmitter s).Ranged ok := by
  unfold muteTransmitter
  split
  · exact withTx_ranged (h.tx :) h
  · exact withTx_ranged ⟨h.tx.1, by simp⟩ h

theorem requestMuted_ranged (c : MuteCause) (h : s.Ranged ok) : (requestMuted c s).Ranged ok := by
  unfold requestMuted
  split
  · exact post_ranged _ _ _ _ _
      (refreshIsolated_ranged none
        (muteTransmitter_ranged (forEach_ranged muteEntry_entryStep (stopTimers_ranged (setPhase_ranged .muted h)))))
  · exact h

theorem frameFinished_ranged (h : s.Ranged ok) : (frameFinished s).Ranged ok := by
  unfold frameFinished
  split
  · exact post_ranged _ _ _ _ _ (setPhase_ranged _ h)
  · exact h

theorem resetEntry_inRange (now : Word16) : (resetEntry now).InRange := ⟨by simp [resetEntry], by simp [resetEntry],
  by simp [resetEntry]⟩

theorem resetPeer_inRange (own p : StationId) : (resetPeer own p).InRange := ⟨.of_none rfl, Nat.zero_le _⟩

theorem restartStation_ranged (s : State) : (restartStation s).AllRanged := by
  have hstation : (restartStation s).station =
      { s.station with phase := .config, listenTimer := none, statusTimer := none } := rfl
  have hrx : (restartStation s).rx = s.rx.idled false := rfl
  have htx : (restartStation s).tx =
      { s.tx with state := .ready, queue := emptyQueue, flight := none, backOff := none, deafCount := 0 } := rfl
  refine ⟨fun n => ?_, fun n => ?_, fun p => ?_, ?_, ?_, ?_⟩
  · rw [restartStation_entry]
    exact resetEntry_inRange _
  · rw [restartStation_condition]
    exact .of_none rfl
  · rw [restartStation_peer]
    exact resetPeer_inRange s.station.ownId p
  · rw [hstation]
    exact ⟨by simp, by simp⟩
  · rw [hrx]
    exact idled_inRange ..
  · rw [htx]
    exact ⟨Nat.zero_le _, by simp⟩

theorem hardReset_ranged (rst : RstLevel) (s : State) : (hardReset rst s).AllRanged := by
  have hblocks : ∀ id low, (resetBlocks id low s).AllRanged := fun id low =>
    ⟨fun n => by rw [resetBlocks_entry]; exact resetEntry_inRange _,
      fun n => by rw [resetBlocks_condition]; exact .of_none rfl,
      fun p => by rw [resetBlocks_peer]; exact resetPeer_inRange id p,
      ⟨by simp [resetBlocks, hardResetState], by simp [resetBlocks, hardResetState]⟩, ⟨Nat.zero_le _, Nat.zero_le _⟩,
      Nat.zero_le _, by simp [resetBlocks, hardResetState, resetTransmitter]⟩
  cases rst with
  | low => exact hblocks ..
  | high id => exact hblocks ..

end

end Sys2Proof.Machine

/-! The ranges of timers and counts kept by the Transmitter, the line, time and the host, and so by every step. -/

namespace Sys2Proof.Machine

/-! ## The Transmitter (R135 to R144) -/

section
variable {s : State}

theorem Transmitter.InRange.of_noBackOff {x : Transmitter} (hd : x.deafCount ≤ 3) (hb : x.backOff = none) :
    x.InRange := ⟨hd, by simp [hb]⟩

theorem finishFrame_ranged (h : s.AllRanged) : (finishFrame s).AllRanged := by
  have h1 := frameFinished_ranged (withTx_ranged (x := { s.tx with flight := none, backOff := none })
    (.of_noBackOff h.tx.1 rfl) h)
  exact takeNext_ranged (withTx_ranged (h1.tx :) h1)

theorem claimSentClean_ranged (n : Service) (e : Epoch) (h : s.AllRanged) : (claimSentClean n e s).AllRanged :=
  (claimSentClean_entryStep n e s).ranged h

theorem giveUp_ranged (f : Flight) (h : s.AllRanged) : (giveUp f s).AllRanged := by
  have h1 : (s.withTx { s.tx with giveUps := satInc s.tx.giveUps }).AllRanged := withTx_ranged (h.tx :) h
  simp only [giveUp]
  split
  · exact finishFrame_ranged ((claimGivenUp_entryStep ..).ranged (post_ranged _ _ _ _ _ h1))
  · exact finishFrame_ranged (post_ranged _ _ _ _ _ h1)
  · exact finishFrame_ranged (post_ranged _ _ _ _ _ h1)
  · exact finishFrame_ranged (post_ranged _ _ _ _ _ h1)

theorem dropMuted_ranged (h : s.AllRanged) : (dropMuted s).AllRanged :=
  withTx_ranged (.of_noBackOff h.tx.1 rfl) h

theorem backOff_ranged {k : Nat} (hk : k ≤ 512) (h : s.AllRanged) : (backOff k s).AllRanged := by
  refine withTx_ranged ⟨h.tx.1, ?_⟩ h
  rintro _ ⟨⟩
  exact hk

/-- The longest back-off is sixteen slots of 32 bit times (R141). -/
theorem collisionBackOff_le (s : State) : s.collisionBackOff ≤ 512 := by
  have := s.station.ownId.isLt
  simp only [State.collisionBackOff, Config.slot]
  omega

theorem endClean_ranged (f : Flight) (h : s.AllRanged) : (endClean f s).AllRanged := by
  have h1 : (s.withTx { s.tx with framesSent := satInc s.tx.framesSent, deafCount := 0 }).AllRanged :=
    withTx_ranged ⟨Nat.zero_le _, h.tx.2⟩ h
  simp only [endClean]
  split
  · exact dropMuted_ranged h1
  · split
    · exact finishFrame_ranged (claimSentClean_ranged _ _ h1)
    · exact finishFrame_ranged h1
    · exact finishFrame_ranged h1
    · exact finishFrame_ranged h1

theorem endCollided_ranged (f : Flight) (h : s.AllRanged) : (endCollided f s).AllRanged := by
  have h1 : (s.withTx { s.tx with collisions := satInc s.tx.collisions, deafCount := 0 }).AllRanged :=
    withTx_ranged ⟨Nat.zero_le _, h.tx.2⟩ h
  simp only [endCollided]
  split
  · exact dropMuted_ranged h1
  · split
    · exact backOff_ranged (collisionBackOff_le s) h1
    · exact giveUp_ranged f h1

theorem endDeaf_ranged (f : Flight) (h : s.AllRanged) : (endDeaf f s).AllRanged := by
  have h1 : (s.withTx
      { s.tx with
        deafAttempts := satInc s.tx.deafAttempts
        deafCount := min (s.tx.deafCount + 1) Config.deafLimit }).AllRanged :=
    withTx_ranged ⟨Nat.min_le_right .., h.tx.2⟩ h
  simp only [endDeaf]
  split
  · exact dropMuted_ranged h1
  · split
    · exact requestMuted_ranged _ (withTx_ranged (h1.tx :) h1)
    · split
      · exact backOff_ranged (by decide) h1
      · exact giveUp_ranged f h1

theorem attemptStart_ranged (h : s.AllRanged) : (attemptStart s).AllRanged := by
  unfold attemptStart
  split
  · split
    · split
      · exact withTx_ranged (h.tx :) h
      · exact finishFrame_ranged h
    · exact h
  · exact h

theorem attemptClean_ranged (h : s.AllRanged) : (attemptClean s).AllRanged := by
  unfold attemptClean
  split
  · next f _ =>
    have hrx : (s.rx.afterOwnFrame f.driven).InRange := ⟨Nat.zero_le _, Nat.zero_le _⟩
    exact endClean_ranged f (withRx_ranged hrx h)
  · exact h

theorem attemptDeaf_ranged (h : s.AllRanged) : (attemptDeaf s).AllRanged := by
  unfold attemptDeaf
  split
  · exact endDeaf_ranged _ h
  · exact h

end

/-! ## The line (R118, R120 to R127) -/

namespace Receiver.InRange
variable {r : Receiver}

theorem sense (h : r.InRange) (b : Symbol) : (r.sense b).InRange := by
  cases b with
  | empty => exact ⟨Nat.min_le_right .., h.2⟩
  | pulse p => exact ⟨Nat.zero_le _, h.2⟩

/-- Past the longest frame no bit is stored (R122; log entry 8). -/
theorem append (h : r.InRange) (b : Bool) : (r.append b).InRange := by
  unfold Receiver.append
  split
  · next hroom =>
    refine ⟨h.1, ?_⟩
    simp only [Config.longestContent, Config.closingBits] at hroom
    simp only [List.length_append, List.length_singleton]
    omega
  · exact h

theorem leaveFrame (h : r.InRange) : r.leaveFrame.InRange := ⟨h.1, Nat.zero_le _⟩

theorem codeErrorFound (h : r.InRange) : r.codeErrorFound.InRange := ⟨h.1, Nat.zero_le _⟩

theorem readInFrame {after : Receiver} (h : after.InRange) (b : Symbol) : (r.readInFrame after b).1.InRange := by
  unfold Receiver.readInFrame
  split
  · split
    · exact h.append false
    · exact h.codeErrorFound
  · split
    · exact (h.append true :)
    · split
      · exact (h.append false :)
      · split
        · exact h.leaveFrame
        · exact h.codeErrorFound

theorem read (h : r.InRange) (b : Symbol) : (r.read b).1.InRange := by
  have hs := h.sense b
  simp only [Receiver.read]
  split
  · split
    · exact hs
    · exact hs
  · exact hs
  · exact hs
  · exact ⟨hs.1, Nat.zero_le _⟩
  · exact hs.codeErrorFound
  · split
    · exact ⟨hs.1, Nat.zero_le _⟩
    · exact hs.codeErrorFound
  · exact readInFrame hs _

theorem count (h : r.InRange) (o : FrameOutcome) : (r.count o).InRange := by
  cases o with
  | formatError => exact h
  | crcError => exact h
  | good f => exact h

theorem run {r' : Receiver} {line : List Symbol} {ev : LineEvent} (h : r.InRange) (he : r.run line = some (r', ev)) :
    r'.InRange := run_keeps (P := Receiver.InRange) (fun _ b hr => hr.read b) he h

theorem judge {s : State} {f : Flight} {line rest : List Symbol} {o : AttemptOutcome} {r' : Receiver} {ev : LineEvent}
    (h : s.rx.InRange) (he : s.judge f line = some (o, r', ev, rest)) : r'.InRange :=
  judgeAttempt_keeps (P := Receiver.InRange) (fun _ b hr => hr.read b) he h

end Receiver.InRange

section
variable {s : State}

theorem passBits_ranged (k : Nat) (h : s.AllRanged) : (passBits k s).AllRanged := by
  unfold passBits
  split
  · next b _ hb =>
    refine withTx_ranged ⟨h.tx.1, ?_⟩ h
    rintro _ ⟨⟩
    exact (Nat.sub_le b k).trans (h.tx.2 b hb)
  · exact h

theorem passBits_withRx_ranged (k : Nat) {r : Receiver} (hr : r.InRange) (h : s.AllRanged) :
    ({ passBits k s with rx := r } : State).AllRanged := withRx_ranged hr (passBits_ranged k h)

theorem idClash_ranged (h : s.AllRanged) : (idClash s).AllRanged := by
  have h1 : (s.withPeers { s.peers with clashCount := satInc s.peers.clashCount }).AllRanged :=
    h.congr rfl rfl rfl rfl rfl rfl
  exact requestMuted_ranged _ (post_ranged _ _ _ _ _ h1)

theorem routeFrame_ranged (f : Frame) (h : s.AllRanged) : (routeFrame f s).AllRanged := by
  unfold routeFrame
  split
  · split
    · exact h
    · exact idClash_ranged h
  · exact takeFrame_ranged f h

theorem frameEnds_ranged (c : List Bool) (past : Bool) {r : Receiver} (hr : r.InRange) (h : s.AllRanged) :
    (frameEnds c past r s).AllRanged := by
  have h1 : (s.withRx (r.count (judgeFrame c past))).AllRanged := withRx_ranged (hr.count _) h
  simp only [frameEnds]
  split
  · exact routeFrame_ranged _ h1
  · exact h1
  · exact h1

theorem collidedWith_ranged (f : Flight) (ev : LineEvent) {r : Receiver} (hr : r.InRange) (h : s.AllRanged) :
    (collidedWith f r ev s).AllRanged := by
  unfold collidedWith
  split
  · next c past =>
    have h1 := endCollided_ranged f (withRx_ranged (hr.count (judgeFrame c past)) h)
    dsimp only
    split
    · split
      · exact h1
      · exact takeFrame_ranged _ h1
    · exact h1
    · exact h1
  · exact endCollided_ranged f (withRx_ranged hr h)
  · exact endCollided_ranged f (withRx_ranged hr h)
  · exact endCollided_ranged f (withRx_ranged hr h)

theorem attemptCollided_ranged (line : List Symbol) (h : s.AllRanged) : (attemptCollided line s).AllRanged := by
  unfold attemptCollided
  split
  · split
    · next hj => exact collidedWith_ranged _ _ (h.rx.judge hj) h
    · exact h
  · exact h

theorem frameReceived_ranged (line : List Symbol) (h : s.AllRanged) : (frameReceived line s).AllRanged := by
  unfold frameReceived
  split
  · exact h
  · split
    · split
      · exact attemptClean_ranged h
      · next hj => exact collidedWith_ranged _ _ (h.rx.judge hj) h
      · exact h
    · split
      · next hr => exact frameEnds_ranged _ _ (h.rx.run hr) (passBits_ranged _ h)
      · exact h

theorem codeError_ranged (line : List Symbol) (h : s.AllRanged) : (codeError line s).AllRanged := by
  unfold codeError
  split
  · exact h
  · split
    · split
      · next hj => exact collidedWith_ranged _ _ (h.rx.judge hj) h
      · exact h
    · split
      · next hr => exact passBits_withRx_ranged _ (h.rx.run hr) h
      · exact h

theorem lineIdle_ranged (line : List Symbol) (h : s.AllRanged) : (lineIdle line s).AllRanged := by
  unfold lineIdle
  split
  · exact h
  · split
    · next hr => exact passBits_withRx_ranged _ (h.rx.run hr) h
    · exact h

theorem backOffEnd_ranged (line : List Symbol) (h : s.AllRanged) : (backOffEnd line s).AllRanged := by
  unfold backOffEnd
  split
  · split
    · next hr => exact withTx_ranged (.of_noBackOff h.tx.1 rfl) (withRx_ranged (h.rx.run hr) h)
    · next hr => exact withTx_ranged (.of_noBackOff h.tx.1 rfl) (withRx_ranged (h.rx.run hr) h)
    · exact h
  · exact h

end

/-! ## Time (R1, R4) -/

/-- A count that falls stays below a bound. -/
theorem tickDown_le {t : Option Nat} {m : Nat} (h : ∀ k ∈ t, k ≤ m) : ∀ k ∈ tickDown t, k ≤ m := by
  intro k hk
  obtain ⟨j, hj, rfl⟩ := Option.map_eq_some_iff.1 hk
  exact (Nat.sub_le j 1).trans (h j hj)

theorem WtrTimer.tick_inRange {w : WtrTimer} (h : w.seconds ≤ 255 ∧ w.ticks < 1000) :
    w.tick.seconds ≤ 255 ∧ w.tick.ticks < 1000 := by
  unfold WtrTimer.tick
  split
  · exact h
  · split
    · next hlt => exact ⟨h.1, hlt⟩
    · exact ⟨(Nat.sub_le _ 1).trans h.1, Nat.zero_lt_succ 999⟩

theorem ServiceEntry.InRange.tick {e : ServiceEntry} (h : e.InRange) : e.tick.InRange := by
  refine ⟨tickDown_le h.1, fun w hw => ?_, fun r hr => ?_⟩
  · obtain ⟨v, hv, rfl⟩ := Option.map_eq_some_iff.1 hw
    exact WtrTimer.tick_inRange (h.2.1 v hv)
  · obtain ⟨q, hq, rfl⟩ := Option.map_eq_some_iff.1 hr
    exact tickDown_le (h.2.2 q hq)

theorem timebaseTick_ranged {s : State} (h : s.AllRanged) : (timebaseTick s).AllRanged := by
  unfold timebaseTick
  split
  · exact h
  · refine ⟨fun n => ?_, fun n => ?_, fun p => ?_, ⟨tickDown_le h.station.1, tickDown_le h.station.2⟩, h.rx, h.tx⟩
    · rw [tick_entry]
      exact (h.entries n).tick
    · rw [tick_condition]
      split
      · exact h.conds n
      · exact tickDown_le (h.conds n)
    · rw [tick_peer]
      split
      · exact h.peers p
      · exact ⟨tickDown_le (h.peers p).1, (h.peers p).2⟩

/-! ## The host (R147 to R156) -/

section
variable {s : State}

theorem writePlanField_ranged (f : PlanField) (v : Byte) (h : s.AllRanged) : (writePlanField f v s).AllRanged := by
  simp only [writePlanField]
  split
  · exact setResult_ranged _ h
  · split
    · exact setResult_ranged _ h
    · have hplan := setResult_ranged .done (withStation_ranged (c :=
        { s.station with plan := s.station.plan.withField s.host.planSelect f v }) (h.station :) h)
      exact putCondition_ranged (hplan.conds _ :) hplan

/-- A Peer Table that keeps each entry's silence timer and in-order count stays in range. -/
theorem withPeers_ranged {x : PeerMonitor} (hs : ∀ p, (look x.entries p).silence = (s.peer p).silence)
    (ho : ∀ p, (look x.entries p).inOrder = (s.peer p).inOrder) (h : s.AllRanged) : (s.withPeers x).AllRanged :=
  { h with
    peers := fun p => by
      have hp := h.peers p
      unfold PeerEntry.InRange PeerEntry.SilenceInRange at hp ⊢
      rw [← hs, ← ho] at hp
      exact hp }

theorem clearCounters_ranged (h : s.AllRanged) : (clearCounters s).AllRanged :=
  setResult_ranged _ <| withPeers_ranged (fun p => by rw [look_tabulate]; rfl) (fun p => by rw [look_tabulate]; rfl)
    (withTx_ranged (h.tx :) (withRx_ranged (h.rx :) h))

theorem runCommand_ranged (c : Command) (h : s.AllRanged) : (runCommand c s).AllRanged := by
  cases c with
  | start =>
    simp only [runCommand, commandStart]
    split
    · exact setResult_ranged _ (startStation_ranged h)
    · exact setResult_ranged _ h
  | leave =>
    simp only [runCommand, commandLeave]
    split
    · exact setResult_ranged _ (leaveStation_ranged h)
    · exact setResult_ranged _ h
  | restart => exact setResult_ranged _ (restartStation_ranged s)
  | force => exact operatorRequest_ranged _ _ h
  | lockout => exact operatorRequest_ranged _ _ h
  | clear => exact operatorRequest_ranged _ _ h
  | clearCounters => exact clearCounters_ranged h

theorem ranged_hostKept : HostKept State.AllRanged :=
  ⟨fun x _ => withHost_ranged x, fun _ _ _ h => h.congr rfl rfl rfl rfl rfl rfl,
    fun f v _ => writePlanField_ranged f v, fun c _ => runCommand_ranged c⟩

/-- Every command that is no data byte keeps the ranges. -/
theorem exec_away_ranged {i : Instr} {t : State} (ha : hostAddress i = none) (h : s.AllRanged)
    (he : exec i s = .next t) : t.AllRanged := by
  cases i
  case irqControlWrite r v => cases r <;> cases ha
  all_goals cases ha <;> cases he
  case hardReset rst => exact hardReset_ranged rst s
  case timebaseTick => exact timebaseTick_ranged h
  case rawConditionChange n sf sd => exact setPins_ranged n sf sd h
  case conditionTimerRunsOut n => exact conditionRunsOut_ranged n h
  case wtrTimerRunsOut n => exact (wtrRunsOut_entryStep n s).ranged h
  case retryHoldRunsOut n => exact (retryRunsOut_entryStep n s).ranged h
  case claimWindowEnd n => exact (windowRunsOut_entryStep n s).ranged h
  case silenceTimerRunsOut p => exact peerTimerRunsOut_ranged p h
  case listenTimerRunsOut => exact listenRunsOut_ranged h
  case statusPeriodTimerRunsOut => exact statusRunsOut_ranged h
  case frameReceived line => exact frameReceived_ranged line h
  case codeError line => exact codeError_ranged line h
  case attemptStart => exact attemptStart_ranged h
  case attemptClean => exact attemptClean_ranged h
  case attemptCollided line => exact attemptCollided_ranged line h
  case attemptDeaf => exact attemptDeaf_ranged h
  case backOffEnd line => exact backOffEnd_ranged line h
  case lineIdle line => exact lineIdle_ranged line h
  case transactionBegin => exact ranged_hostKept.beginTransaction h
  case addressByte v => exact ranged_hostKept.takeAddress v h
  case transactionEnd => exact withHost_ranged _ h

theorem exec_ranged {i : Instr} {t : State} (h : s.AllRanged) (he : exec i s = .next t) : t.AllRanged := by
  cases ha : hostAddress i with
  | some a => exact ranged_hostKept.exec_data ha h he
  | none => exact exec_away_ranged ha h he

end

/-- Settles O6: each command keeps every block's timers and counts in range. -/
theorem stepKeepsRanges : Obligations.StepKeepsRanges := by
  intro s t h he
  rw [inRange_iff] at h ⊢
  exact step_of_exec (good := State.AllRanged) (fun _ _ h => h.congr rfl rfl rfl rfl rfl rfl) (fun _ h => h)
    (fun _ _ _ h => exec_ranged h) h he

end Sys2Proof.Machine

/-! What waits to be sent once it has been asked for (R131 to R135), and an own claim that fails with its retry hold
(R15, R31): the facts that the statements about claiming a service share. -/

namespace Sys2Proof.Machine

/-! ## Entries in the urgent class (R131, R133) -/

/-- A RELEASE entry stands in the urgent class. -/
def TxQueue.HasRelease (q : TxQueue) (x : ReleaseEntry) : Prop := ∃ u ∈ q.urgent, x ∈ u.releases

/-- An OBJECT entry stands in the urgent class. -/
def TxQueue.HasObject (q : TxQueue) (x : ObjectEntry) : Prop := ∃ u ∈ q.urgent, x ∈ u.objects

theorem mem_joinRelease_self (x : ReleaseEntry) (es : List ReleaseEntry) : x ∈ joinRelease x es := by
  induction es with
  | nil => exact List.mem_singleton_self x
  | cons y rest ih =>
    unfold joinRelease
    split
    · exact List.mem_cons_self
    · exact List.mem_cons_of_mem _ ih

theorem mem_joinObject_self (x : ObjectEntry) (es : List ObjectEntry) : x ∈ joinObject x es := by
  induction es with
  | nil => exact List.mem_singleton_self x
  | cons y rest ih =>
    unfold joinObject
    split
    · exact List.mem_cons_self
    · exact List.mem_cons_of_mem _ ih

/-- An entry that joins takes the place of one for its own service alone (R133). -/
theorem mem_joinRelease_of_ne {x z : ReleaseEntry} {es : List ReleaseEntry} (hz : z ∈ es) (hne : z.service ≠ x.service) :
    z ∈ joinRelease x es := by
  induction es with
  | nil => cases hz
  | cons y rest ih =>
    unfold joinRelease
    split
    · next hy =>
      refine List.mem_cons_of_mem _ ((List.mem_cons.1 hz).resolve_left ?_)
      rintro rfl
      exact hne hy
    · rcases List.mem_cons.1 hz with rfl | hz
      · exact List.mem_cons_self
      · exact List.mem_cons_of_mem _ (ih hz)

theorem TxQueue.addRelease_has (q : TxQueue) (x : ReleaseEntry) : (q.addRelease x).HasRelease x := by
  obtain ⟨us, cs, st⟩ := q
  unfold TxQueue.HasRelease
  simp only [TxQueue.addRelease]
  induction us with
  | nil => exact ⟨_, List.mem_singleton_self _, List.mem_singleton_self x⟩
  | cons u rest ih =>
    cases u with
    | release es => exact ⟨_, List.mem_cons_self, mem_joinRelease_self x es⟩
    | object es =>
      obtain ⟨v, hv, hx⟩ := ih
      exact ⟨v, List.mem_cons_of_mem _ hv, hx⟩

theorem TxQueue.addObject_has (q : TxQueue) (x : ObjectEntry) : (q.addObject x).HasObject x := by
  obtain ⟨us, cs, st⟩ := q
  unfold TxQueue.HasObject
  simp only [TxQueue.addObject]
  induction us with
  | nil => exact ⟨_, List.mem_singleton_self _, List.mem_singleton_self x⟩
  | cons u rest ih =>
    cases u with
    | object es => exact ⟨_, List.mem_cons_self, mem_joinObject_self x es⟩
    | release es =>
      obtain ⟨v, hv, hx⟩ := ih
      exact ⟨v, List.mem_cons_of_mem _ hv, hx⟩

theorem TxQueue.HasRelease.addRelease {q : TxQueue} {z : ReleaseEntry} (h : q.HasRelease z) {x : ReleaseEntry}
    (hne : z.service ≠ x.service) : (q.addRelease x).HasRelease z := by
  obtain ⟨us, cs, st⟩ := q
  unfold TxQueue.HasRelease at h ⊢
  simp only [TxQueue.addRelease] at h ⊢
  obtain ⟨v, hv, hz⟩ := h
  induction us with
  | nil => cases hv
  | cons u rest ih =>
    cases u with
    | release es =>
      rcases List.mem_cons.1 hv with rfl | hv
      · exact ⟨_, List.mem_cons_self, mem_joinRelease_of_ne hz hne⟩
      · exact ⟨v, List.mem_cons_of_mem _ hv, hz⟩
    | object es =>
      rcases List.mem_cons.1 hv with rfl | hv
      · cases hz
      · obtain ⟨w, hw, hz⟩ := ih hv
        exact ⟨w, List.mem_cons_of_mem _ hw, hz⟩

/-! ## The head that is taken (R131, R135) -/

theorem status_takeHead {q q' : TxQueue} {f : TxFrame} (h : q.takeHead = some (f, q')) (hs : q.status = true) :
    q'.status = true ∨ f = .status := by
  obtain ⟨us, cs, st⟩ := q
  cases us with
  | cons u rest => cases u <;> cases h <;> exact .inl hs
  | nil =>
    cases cs with
    | cons c rest => cases h; exact .inl hs
    | nil => cases hs; cases h; exact .inr rfl

theorem release_takeHead {q q' : TxQueue} {f : TxFrame} {x : ReleaseEntry} (h : q.takeHead = some (f, q'))
    (hx : q.HasRelease x) : q'.HasRelease x ∨ x ∈ f.releases := by
  obtain ⟨us, cs, st⟩ := q
  obtain ⟨v, hv, hx⟩ := hx
  cases us with
  | nil => cases hv
  | cons u rest =>
    rcases List.mem_cons.1 hv with rfl | htail
    · cases v with
      | release es => cases h; exact .inr hx
      | object es => cases hx
    · cases u <;> cases h <;> exact .inl ⟨v, htail, hx⟩

theorem object_takeHead {q q' : TxQueue} {f : TxFrame} {x : ObjectEntry} (h : q.takeHead = some (f, q'))
    (hx : q.HasObject x) : q'.HasObject x ∨ x ∈ f.objects := by
  obtain ⟨us, cs, st⟩ := q
  obtain ⟨v, hv, hx⟩ := hx
  cases us with
  | nil => cases hv
  | cons u rest =>
    rcases List.mem_cons.1 hv with rfl | htail
    · cases v with
      | object es => cases h; exact .inr hx
      | release es => cases hx
    · cases u <;> cases h <;> exact .inl ⟨v, htail, hx⟩

/-- What taking the head does: nothing, or a head of the queue is in flight and the Transmitter WAITING (R135). -/
theorem takeNext_cases (s : State) :
    takeNext s = s ∨ ∃ f q, s.tx.queue.takeHead = some (f, q) ∧
      takeNext s = s.withTx
        { s.tx with
          state := .waiting, queue := q, flight := some { frame := f, content := none, seq := none, attempts := 0 } } := by
  unfold takeNext
  split
  · split
    · next f q hq => exact .inr ⟨f, q, hq, rfl⟩
    · exact .inl rfl
  · exact .inl rfl

theorem takeNext_of_busy {s : State} (h : s.tx.state ≠ .ready) : takeNext s = s := by
  unfold takeNext
  rw [if_neg fun hr => h hr.2]

theorem takeNext_of_empty {s : State} (h : s.tx.queue = emptyQueue) : takeNext s = s := by
  unfold takeNext
  rw [takeHead_none.2 h]
  split <;> rfl

theorem takeNext_of_head {s : State} {f : TxFrame} {q : TxQueue} (hp : s.station.phase.sends = true)
    (hr : s.tx.state = .ready) (h : s.tx.queue.takeHead = some (f, q)) :
    takeNext s = s.withTx
      { s.tx with
        state := .waiting, queue := q, flight := some { frame := f, content := none, seq := none, attempts := 0 } } := by
  unfold takeNext
  rw [if_pos ⟨hp, hr⟩, h]

theorem takeNext_statusWaits {s : State} (h : s.tx.queue.status = true) : (takeNext s).StatusWaits := by
  rcases takeNext_cases s with hs | ⟨f, q, hq, hs⟩ <;> rw [hs]
  · exact .inl h
  · rcases status_takeHead hq h with hk | rfl
    · exact .inl hk
    · exact .inr ⟨_, rfl, rfl, rfl⟩

theorem takeNext_objectWaits {s : State} {x : ObjectEntry} (h : s.tx.queue.HasObject x) :
    (takeNext s).ObjectWaits x := by
  rcases takeNext_cases s with hs | ⟨f, q, hq, hs⟩ <;> rw [hs]
  · exact .inl h
  · exact (object_takeHead hq h).imp id fun hx => ⟨_, rfl, hx⟩

/-- A RELEASE entry waits where a later taking of the head does not disturb it: queued, or in the flight of a Transmitter
that is not READY. -/
def State.ReleaseStands (s : State) (x : ReleaseEntry) : Prop :=
  s.tx.queue.HasRelease x ∨ (s.tx.state ≠ .ready ∧ ∃ f ∈ s.tx.flight, x ∈ f.frame.releases)

theorem State.ReleaseStands.waits {s : State} {x : ReleaseEntry} (h : s.ReleaseStands x) : s.ReleaseWaits x :=
  h.imp id And.right

theorem State.ReleaseStands.of_tx {s t : State} {x : ReleaseEntry} (ht : t.tx = s.tx) (h : s.ReleaseStands x) :
    t.ReleaseStands x := by
  unfold State.ReleaseStands
  rw [ht]
  exact h

theorem takeNext_releaseStands {s : State} {x : ReleaseEntry} (h : s.ReleaseStands x) : (takeNext s).ReleaseStands x := by
  rcases h with h | ⟨hr, hx⟩
  · rcases takeNext_cases s with hs | ⟨f, q, hq, hs⟩ <;> rw [hs]
    · exact .inl h
    · exact (release_takeHead hq h).imp id fun hx => ⟨by simp, _, rfl, hx⟩
  · rw [takeNext_of_busy hr]
    exact .inr ⟨hr, hx⟩

/-! ## Requests where the Transmitter accepts them (R131, R135) -/

section
variable {s : State} (hp : s.station.phase.sends = true)
include hp

theorem enqueue_of_sends (f : TxQueue → TxQueue) : enqueue f s = s.withTx { s.tx with queue := f s.tx.queue } := by
  unfold enqueue
  rw [if_pos hp]

theorem requestStatus_statusWaits : (requestStatus s).StatusWaits := by
  unfold requestStatus request
  rw [enqueue_of_sends hp]
  exact takeNext_statusWaits rfl

theorem requestObject_objectWaits (x : ObjectEntry) : (requestObject x s).ObjectWaits x := by
  unfold requestObject request
  rw [enqueue_of_sends hp]
  exact takeNext_objectWaits (TxQueue.addObject_has ..)

theorem request_releaseStands (x : ReleaseEntry) : (request (fun q => q.addRelease x) s).ReleaseStands x := by
  unfold request
  rw [enqueue_of_sends hp]
  exact takeNext_releaseStands (.inl (TxQueue.addRelease_has ..))

/-- A busy Transmitter queues a request and takes nothing. -/
theorem request_of_busy (f : TxQueue → TxQueue) (hb : s.tx.state ≠ .ready) :
    request f s = s.withTx { s.tx with queue := f s.tx.queue } := by
  unfold request
  rw [enqueue_of_sends hp]
  exact takeNext_of_busy hb

end

/-! ## Evaluation while a retry hold runs (R15) -/

/-- An evaluation switches no drive on (R42). -/
theorem Evaluation.drv_off {n : Service} {s t : State} (h : Evaluation n s t) (hs : (s.entry n).state ≠ .held)
    (hd : look s.oc.drv n = false) : look t.oc.drv n = false := by
  cases h with
  | same => exact hd
  | removed => rw [removeWtr, putEntry_drv_same]; exact decide_eq_false hs
  | started => rw [startWtr, putEntry_drv_same]; exact decide_eq_false hs
  | claimed e m => rw [queueOwnClaim, requestClaim, request_oc, putEntry_drv_same]; rfl

/-- Entry `n` of `t` is that of `s` but for its WTR timer, and the Transmitter and the Host Port are as they were: what an
evaluation under a retry hold leaves. -/
structure State.HeldBack (n : Service) (s t : State) : Prop where
  tx : t.tx = s.tx
  host : t.host = s.host
  entry : t.entry n = { s.entry n with wtr := (t.entry n).wtr }
  drv : look t.oc.drv n = false

theorem evaluate_heldBack {n : Service} {s : State} (hr : (s.entry n).retryHold ≠ none)
    (hs : (s.entry n).state ≠ .held) (hd : look s.oc.drv n = false) : s.HeldBack n (evaluate n s) := by
  have h := evaluate_evaluation n s
  obtain ⟨htx, hentry⟩ := h.of_held_back hr
  exact ⟨htx, h.host, hentry, h.drv_off hs hd⟩

/-! ## Own claims that fail (R31) -/

theorem settledState_free (s : State) (o : Option StationId) :
    s.settledState o = .vacant ∨ s.settledState o = .remote ∨ s.settledState o = .orphaned := by
  unfold State.settledState
  split
  · exact .inl rfl
  · split
    · exact .inr (.inl rfl)
    · exact .inr (.inr rfl)

theorem settledState_ne_held (s : State) (o : Option StationId) : s.settledState o ≠ .held := by
  rcases settledState_free s o with h | h | h <;> rw [h] <;> decide

theorem settledState_ne_claiming (s : State) (o : Option StationId) : s.settledState o ≠ .claiming := by
  rcases settledState_free s o with h | h | h <;> rw [h] <;> decide

section
variable (n : Service) (r : ClaimRecord) (c : FailCause) (p : Option StationId) (s : State)

theorem failOwnClaim_eq :
    failOwnClaim n r c p s =
      putEntry n { s.settled (s.entry n) with retryHold := some 100 }
        (post .claimFailed (some n) p (some r.epoch) (some (.claimFailed c)) s) :=
  changeEntry_of_same (s := post ..) rfl rfl

theorem failOwnClaim_entry :
    (failOwnClaim n r c p s).entry n =
      stamp s.timebase (s.entry n) { s.settled (s.entry n) with retryHold := some 100 } := by
  rw [failOwnClaim_eq, putEntry_entry_same]
  rfl

/-- The failing entry changes its state, so that it takes the time (R4). -/
theorem failOwnClaim_entry_of_claiming (hs : (s.entry n).state = .claiming) :
    (failOwnClaim n r c p s).entry n =
      { s.settled (s.entry n) with retryHold := some 100, changed := s.timebase } := by
  rw [failOwnClaim_entry, stamp_of_changed (.inl ?_)]
  rw [hs]
  exact settledState_ne_claiming s (s.entry n).owner

theorem failOwnClaim_tx : (failOwnClaim n r c p s).tx = s.tx := by
  rw [failOwnClaim_eq]
  rfl

theorem failOwnClaim_drv : look (failOwnClaim n r c p s).oc.drv n = false := by
  rw [failOwnClaim_eq, putEntry_drv_same]
  exact decide_eq_false (settledState_ne_held s (s.entry n).owner)

theorem failOwnClaim_host :
    (failOwnClaim n r c p s).host =
      (post .claimFailed (some n) p (some r.epoch) (some (.claimFailed c)) s).host := by
  rw [failOwnClaim_eq]
  rfl

/-- The retry hold that begins keeps an evaluation of the failed entry from claiming (R15, R31). -/
theorem evaluate_failOwnClaim :
    (failOwnClaim n r c p s).HeldBack n (evaluate n (failOwnClaim n r c p s)) := by
  refine evaluate_heldBack ?_ ?_ (failOwnClaim_drv ..)
  · rw [failOwnClaim_entry, stamp_retryHold]
    simp
  · rw [failOwnClaim_entry, stamp_state]
    exact settledState_ne_held s (s.entry n).owner

end

/-- An own claim of entry `n` has failed (R31): the entry is settled with its owner and epoch, the retry hold runs, the
drive is off, nothing is asked of the Transmitter, and CLAIM_FAILED alone is posted. -/
structure State.ClaimFailed (n : Service) (r : ClaimRecord) (c : FailCause) (p : Option StationId) (s t : State) :
    Prop where
  settled : s.SettledAs (t.entry n)
  owner : (t.entry n).owner = (s.entry n).owner
  epoch : (t.entry n).epoch = (s.entry n).epoch
  retryHold : (t.entry n).retryHold = some 100
  changed : (s.entry n).state = .claiming → (t.entry n).changed = s.timebase
  drv : look t.oc.drv n = false
  tx : t.tx = s.tx
  host : t.host = (post .claimFailed (some n) p (some r.epoch) (some (.claimFailed c)) s).host

theorem State.ClaimFailed.heldBack {n : Service} {r : ClaimRecord} {c : FailCause} {p : Option StationId}
    {s t u : State} (h : s.ClaimFailed n r c p t) (k : t.HeldBack n u) : s.ClaimFailed n r c p u where
  settled := by rw [k.entry]; exact h.settled.of_fields rfl rfl rfl
  owner := by rw [k.entry]; exact h.owner
  epoch := by rw [k.entry]; exact h.epoch
  retryHold := by rw [k.entry]; exact h.retryHold
  changed := by rw [k.entry]; exact h.changed
  drv := k.drv
  tx := k.tx.trans h.tx
  host := k.host.trans h.host

theorem failOwnClaim_fails (n : Service) (r : ClaimRecord) (c : FailCause) (p : Option StationId) (s : State) :
    s.ClaimFailed n r c p (failOwnClaim n r c p s) where
  settled := by
    rw [failOwnClaim_entry]
    exact (settledAs_settled s (s.entry n)).of_fields (stamp_record ..) (stamp_owner ..) (stamp_state ..)
  owner := by rw [failOwnClaim_entry, stamp_owner]; rfl
  epoch := by rw [failOwnClaim_entry, stamp_epoch]; rfl
  retryHold := by rw [failOwnClaim_entry, stamp_retryHold]
  changed := fun hs => by rw [failOwnClaim_entry_of_claiming n r c p s hs]
  drv := failOwnClaim_drv ..
  tx := failOwnClaim_tx ..
  host := failOwnClaim_host ..

theorem failOwnClaim_evaluated (n : Service) (r : ClaimRecord) (c : FailCause) (p : Option StationId) (s : State) :
    s.ClaimFailed n r c p (evaluate n (failOwnClaim n r c p s)) :=
  (failOwnClaim_fails ..).heldBack (evaluate_failOwnClaim ..)

theorem State.ClaimFailed.events {n : Service} {r : ClaimRecord} {c : FailCause} {p : Option StationId} {s t : State}
    (h : s.ClaimFailed n r c p t) (hrec : s.CanRecord 1) :
    t.host.events =
      s.host.events ++ [s.event .claimFailed (some n) p (some r.epoch) (some (.claimFailed c))] := by
  rw [h.host]
  exact State.CanRecord.post_events (k := 0) _ _ _ _ _ hrec

/-! ## The window end (R28 to R30) -/

/-- Condition 5 of R28 does not hold. -/
theorem windowFails_false {s : State} {r : ClaimRecord}
    (h : ∀ p, r.mode = .takeover p → s.isLive p = true → r.releaseHeard = true ∨ r.listing = .notListed) :
    s.windowFails r = false := by
  unfold State.windowFails
  split
  · rfl
  · next p hm =>
    cases hl : s.isLive p with
    | false => rfl
    | true => rcases h p hm hl with he | he <;> simp [he]

/-- Condition 5 of R28 holds. -/
theorem windowFails_true {s : State} {r : ClaimRecord} {p : StationId} (hm : r.mode = .takeover p)
    (hl : s.isLive p = true) (hh : r.releaseHeard = false) (hn : r.listing ≠ .notListed) : s.windowFails r = true := by
  simp [State.windowFails, hm, hl, hh, hn]

theorem windowRunsOut_of_zero {n : Service} {s : State} {r : ClaimRecord} (hr : (s.entry n).record = some r)
    (hw : r.window = some 0) : windowRunsOut n s = endWindow n r s := by
  unfold windowRunsOut
  rw [hr]
  exact if_pos hw

section
variable {n : Service} {s : State} {r : ClaimRecord}

theorem endWindow_own_accepts (ho : r.claimant = s.station.ownId) (hf : s.windowFails r = false) :
    endWindow n r s = acceptOwnClaim n r s := by
  simp [endWindow, ho, hf]

theorem endWindow_own_fails (ho : r.claimant = s.station.ownId) (hf : s.windowFails r = true) :
    endWindow n r s = evaluate n (failOwnClaim n r .timeout r.mode.target s) := by
  simp [endWindow, ho, hf]

theorem endWindow_watched_accepts (ho : r.claimant ≠ s.station.ownId) (hf : s.windowFails r = false) :
    endWindow n r s = acceptWatchedClaim n r s := by
  simp [endWindow, ho, hf]

theorem endWindow_watched_fails (ho : r.claimant ≠ s.station.ownId) (hf : s.windowFails r = true) :
    endWindow n r s = evaluate n (dropRecord n s) := by
  simp [endWindow, ho, hf]

/-- In ACTIVE the evaluation of a HELD entry removes its WTR timer (R18, case 1). -/
theorem evaluate_held_active (ha : s.station.phase = .active) (hs : (s.entry n).state = .held) :
    evaluate n s = removeWtr n s := by
  simp only [evaluate]
  rw [if_neg (not_not_intro ha), hs]

theorem acceptOwnClaim_active (ha : s.station.phase = .active) :
    acceptOwnClaim n r s = removeWtr n (accepted n r s) := by
  rw [acceptOwnClaim_eq]
  refine evaluate_held_active ?_ (by rw [accepted_entry, stamp_state])
  rw [accepted, post_station, requestStatus, (request_step (fun _ h => h.addStatus) _).station]
  exact ha

/-- The entry that an ACTIVE station holds after its claim was accepted (R29). -/
theorem acceptOwnClaim_entry (ha : s.station.phase = .active) (hs : (s.entry n).state = .claiming) :
    (acceptOwnClaim n r s).entry n =
      { s.entry n with
        state := .held, owner := some s.station.ownId, epoch := some r.epoch, record := none, wtr := none
        changed := s.timebase } := by
  rw [acceptOwnClaim_active ha, removeWtr_entry, accepted_entry, stamp_of_changed (.inl (by simp [hs]))]

theorem acceptOwnClaim_statusWaits (ha : s.station.phase = .active) : (acceptOwnClaim n r s).StatusWaits := by
  rw [acceptOwnClaim_active ha]
  exact requestStatus_statusWaits (s := putEntry ..) (by rw [putEntry_station, ha]; rfl)

theorem acceptOwnClaim_events (hrec : s.CanRecord 1) :
    (acceptOwnClaim n r s).host.events =
      s.host.events ++ [s.event .svcHeld (some n) r.mode.target (some r.epoch) (some r.mode.detail)] := by
  have hhost : ∀ e, (requestStatus (putEntry n e s)).host = s.host := fun _ => request_host ..
  have htime : ∀ e, (requestStatus (putEntry n e s)).timebase = s.timebase := fun _ => (requestStatus_step _).timebase
  rw [acceptOwnClaim_eq, evaluate_host, accepted, State.CanRecord.post_events (k := 0)]
  · rw [hhost]
    simp only [State.event, htime]
  · unfold State.CanRecord
    rw [hhost]
    exact hrec

end

/-- Settles O18: the window end test decides between acceptance, whose evaluation removes the WTR timer, and failure,
whose retry hold keeps the evaluation from claiming again. -/
theorem ownWindowEnds : Obligations.OwnWindowEnds := by
  intro n s r hagrees hs hr hw
  have hrun := windowRunsOut_of_zero hr hw
  have hstep := windowRunsOut_entryStep n s
  have hown : r.claimant = s.station.ownId := hagrees.claimant_of_claiming hs hr
  have hactive : s.station.phase = .active := (hagrees.may_of_claiming hs).1
  refine ⟨fun hok => ⟨windowRunsOut n s, rfl, ?_⟩, fun p hm hl hh hn => ⟨windowRunsOut n s, rfl, ?_⟩⟩
  · have haccept := hrun.trans (endWindow_own_accepts hown (windowFails_false hok))
    refine ⟨?_, ?_, hstep.others, ?_, hstep.owner.onlyOwnership, fun hrec => ?_⟩
    · rw [haccept]
      exact acceptOwnClaim_entry hactive hs
    · rw [haccept]
      exact (acceptOwnClaim_held n r s).2.2.2.2
    · rw [haccept]
      exact acceptOwnClaim_statusWaits hactive
    · rw [haccept, acceptOwnClaim_events hrec]
      cases r.mode <;> rfl
  · have hfailed := failOwnClaim_evaluated n r .timeout r.mode.target s
    rw [← hrun.trans (endWindow_own_fails hown (windowFails_true hm hl hh hn))] at hfailed
    refine ⟨hfailed.settled, hfailed.owner, hfailed.epoch, hfailed.retryHold, hfailed.changed hs, hfailed.drv,
      hstep.others, hstep.owner.onlyOwnership, hfailed.tx, fun hrec => ?_⟩
    rw [hfailed.events hrec, hm]
    rfl

/-! ## The window end of a watched claim (R30) -/

section
variable {n : Service} {s : State} {r : ClaimRecord}

/-- Acceptance of a watched claim of a LIVE peer, before the evaluation: the claimant owns the service (R7, R30). -/
theorem settled_claimant (hl : s.isLive r.claimant = true) (e : ServiceEntry) :
    s.settled { e with owner := some r.claimant, epoch := some r.epoch } =
      { e with state := .remote, owner := some r.claimant, epoch := some r.epoch, record := none } := by
  simp [State.settled, State.settledState, hl]

/-- Outside ACTIVE the accepted claim's entry is REMOTE and nothing else follows (R15, R30). -/
theorem acceptWatchedClaim_inactive (hp : s.station.phase ≠ .active) (hl : s.isLive r.claimant = true)
    (hs : (s.entry n).state = .watching) :
    (acceptWatchedClaim n r s).entry n =
        { s.entry n with
          state := .remote, owner := some r.claimant, epoch := some r.epoch, record := none
          changed := s.timebase } ∧
      (acceptWatchedClaim n r s).tx = s.tx := by
  simp only [acceptWatchedClaim, settled_claimant hl]
  rw [evaluate_of_not_active (by rw [(changeEntry_step ..).station]; exact hp), changeEntry_entry_same, changeEntry_tx,
    stamp_of_changed (.inl (by simp [hs]))]
  exact ⟨rfl, rfl⟩

theorem acceptWatchedClaim_events (hl : s.isLive r.claimant = true) (hs : (s.entry n).state = .watching)
    (hc : (s.entry n).owner ≠ some r.claimant ∨ (s.entry n).epoch ≠ some r.epoch) (hrec : s.CanRecord 1) :
    (acceptWatchedClaim n r s).host.events =
      s.host.events ++ [s.event .ownerChanged (some n) (some r.claimant) (some r.epoch) none] := by
  simp only [acceptWatchedClaim, settled_claimant hl, evaluate_host]
  rw [changeEntry_of_changed (by rw [hs]; decide) (by simp) hc]
  exact State.CanRecord.post_events (k := 0) _ _ _ _ _ hrec

/-- Outside ACTIVE a watched record that is removed leaves the entry settled, and nothing else follows (R7, R15). -/
theorem dropRecord_inactive (hp : s.station.phase ≠ .active) (hs : (s.entry n).state = .watching) :
    (evaluate n (dropRecord n s)).entry n = { s.settled (s.entry n) with changed := s.timebase } ∧
      (evaluate n (dropRecord n s)).tx = s.tx := by
  rw [dropRecord_eq, evaluate_of_not_active (s := putEntry ..) hp, putEntry_entry_same, stamp_of_changed (.inl ?_)]
  · exact ⟨rfl, rfl⟩
  · rw [hs]
    rcases settledState_free s (s.entry n).owner with h | h | h <;> simp [State.settled, h]

end

/-- Settles O19: the window end test decides whether the claimant becomes the owner; an evaluation changes neither owner
nor epoch. -/
theorem watchedWindowEnds : Obligations.WatchedWindowEnds := by
  intro n s r hagrees hs hr hw
  have hrun := windowRunsOut_of_zero hr hw
  have hstep := windowRunsOut_entryStep n s
  have hpeer : r.claimant ≠ s.station.ownId := hagrees.claimant_of_watching hs hr
  have hlive : s.isLive r.claimant = true := by
    obtain ⟨-, x, hx, -, hl, -⟩ := (entryAgrees_watching hs).1 hagrees
    rw [hr] at hx
    exact Option.some.inj hx ▸ hl
  refine ⟨fun hok => ⟨windowRunsOut n s, rfl, ?_⟩, fun p hm hl hh hn => ⟨windowRunsOut n s, rfl, ?_⟩⟩
  · have haccept := hrun.trans (endWindow_watched_accepts hpeer (windowFails_false hok))
    obtain ⟨howner, hepoch⟩ := acceptWatchedClaim_owner n r s
    rw [← haccept] at howner hepoch
    refine ⟨howner, hepoch, fun hp => ?_, hstep.others, hstep.owner.onlyOwnership, fun hrec hc => ?_⟩
    · rw [haccept]
      exact acceptWatchedClaim_inactive hp hlive hs
    · rw [haccept]
      exact acceptWatchedClaim_events hlive hs hc hrec
  · have hdrop := hrun.trans (endWindow_watched_fails hpeer (windowFails_true hm hl hh hn))
    obtain ⟨howner, hepoch, -, hhost⟩ := dropRecord_evaluated n s
    rw [← hdrop] at howner hepoch hhost
    refine ⟨howner, hepoch, fun hp => ?_, hstep.others, hstep.owner.onlyOwnership, hhost⟩
    obtain ⟨hentry, htx⟩ := dropRecord_inactive (n := n) hp hs
    rw [hdrop, hentry]
    exact ⟨(settledAs_settled s (s.entry n)).of_fields rfl rfl rfl, rfl, rfl, rfl, htx⟩

end Sys2Proof.Machine

/-! A frame of the Transmitter that ends: sent CLEAN (R21, R22, R140) or given up after its eighth attempt (R38, R142), with
the next head taken (R135) and the leave frames done (R112). -/

namespace Sys2Proof.Machine

/-! ## Finishing a frame (R112, R135) -/

theorem isEmpty_iff (q : TxQueue) : q.isEmpty = true ↔ q = emptyQueue := by
  obtain ⟨us, cs, st⟩ := q
  simp [TxQueue.isEmpty, emptyQueue, and_assoc]

/-- The Station Controller does nothing, or finds the leave frames done on an empty queue (R112). -/
theorem frameFinished_cases (s : State) :
    frameFinished s = s ∨ (s.tx.queue = emptyQueue ∧
      frameFinished s = post .phaseChanged none none none (some (.phase .detached)) (setPhase .detached s)) := by
  unfold frameFinished
  split
  · next h => exact .inr ⟨(isEmpty_iff _).1 h.2.1, rfl⟩
  · exact .inl rfl

/-- The state with the frame in flight gone and the Transmitter READY, before the next head is taken (R135). -/
def flightDone (s : State) : State := s.withTx { s.tx with state := .ready, flight := none, backOff := none }

/-- With frames left in the queue the Transmitter becomes READY and takes the head. -/
theorem finishFrame_of_queued {s : State} (h : s.tx.queue ≠ emptyQueue) : finishFrame s = takeNext (flightDone s) := by
  rcases frameFinished_cases (s.withTx { s.tx with flight := none, backOff := none }) with hf | ⟨he, -⟩
  · simp only [finishFrame]
    rw [hf]
    rfl
  · exact absurd he h

/-- What finishing the frame in flight leaves as it was, and the head that follows it (R112, R135). -/
structure State.Finished (s t : State) : Prop where
  tx : t.tx =
    { s.tx with state := t.tx.state, queue := t.tx.queue, flight := t.tx.flight, backOff := none }
  timebase : t.timebase = s.timebase
  oc : t.oc = s.oc
  cond : t.cond = s.cond
  peers : t.peers = s.peers
  rx : t.rx = s.rx
  pending : t.pending = s.pending
  rstLow : t.rstLow = s.rstLow
  events : s.host.events <+: t.host.events
  next : ∀ g q, s.tx.queue.takeHead = some (g, q) →
    t.tx.state = .waiting ∧ t.tx.queue = q ∧
      t.tx.flight = some { frame := g, content := none, seq := none, attempts := 0 }
  idle : s.tx.queue = emptyQueue → t.tx.state = .ready ∧ t.tx.flight = none ∧ t.tx.queue = emptyQueue

theorem takeHead_ne_empty {q q' : TxQueue} {g : TxFrame} (h : q.takeHead = some (g, q')) : q ≠ emptyQueue := by
  intro he
  rw [takeHead_none.2 he] at h
  cases h

theorem finishFrame_finished {s : State} (hp : s.station.phase.sends = true) : s.Finished (finishFrame s) := by
  by_cases he : s.tx.queue = emptyQueue
  · have hno : ∀ g q, s.tx.queue.takeHead = some (g, q) → False := fun _ _ h => takeHead_ne_empty h he
    simp only [finishFrame]
    rw [takeNext_of_empty (by rw [withTx_tx, frameFinished_tx]; exact he)]
    rcases frameFinished_cases (s.withTx { s.tx with flight := none, backOff := none }) with hf | ⟨-, hf⟩ <;> rw [hf]
    · exact ⟨rfl, rfl, rfl, rfl, rfl, rfl, rfl, rfl, List.prefix_rfl, fun g q h => (hno g q h).elim,
        fun _ => ⟨rfl, rfl, he⟩⟩
    · exact ⟨rfl, rfl, rfl, rfl, rfl, rfl, rfl, rfl, post_events_grow .., fun g q h => (hno g q h).elim,
        fun _ => ⟨rfl, rfl, he⟩⟩
  · obtain ⟨⟨g, q⟩, hq⟩ := Option.ne_none_iff_exists'.1 (mt takeHead_none.1 he)
    rw [finishFrame_of_queued he, takeNext_of_head (s := flightDone s) hp rfl hq]
    refine ⟨rfl, rfl, rfl, rfl, rfl, rfl, rfl, rfl, List.prefix_rfl, fun g' q' h => ?_, fun h => absurd h he⟩
    obtain ⟨rfl, rfl⟩ := Prod.mk.inj (Option.some.inj (hq.symm.trans h))
    exact ⟨rfl, rfl, rfl⟩

/-- A queued RELEASE entry still waits after the frame before it. -/
theorem finishFrame_releaseWaits {s : State} {x : ReleaseEntry} (h : s.tx.queue.HasRelease x) :
    (finishFrame s).ReleaseWaits x := by
  have hne : s.tx.queue ≠ emptyQueue := by
    intro he
    obtain ⟨u, hu, -⟩ := h
    rw [he] at hu
    cases hu
  rw [finishFrame_of_queued hne]
  exact (takeNext_releaseStands (s := flightDone s) (.inl h)).waits

/-! ## The own claim of an entry (R20) -/

section
variable {n : Service} {e : Epoch} {s : State}

theorem ownClaimAt_of {r : ClaimRecord} (hs : (s.entry n).state = .claiming) (hr : (s.entry n).record = some r)
    (ho : r.claimant = s.station.ownId) (he : r.epoch = e) : s.ownClaimAt n e = some r := by
  simp [State.ownClaimAt, hr, hs, ho, he]

theorem ownClaimAt_eq_none (h : (s.entry n).state = .claiming → ∀ r ∈ (s.entry n).record, r.epoch ≠ e) :
    s.ownClaimAt n e = none := by
  cases hc : s.ownClaimAt n e with
  | none => rfl
  | some r =>
    obtain ⟨hr, hs, -, he⟩ := ownClaimAt_some hc
    exact absurd he (h hs r hr)

end

/-! ## A CLAIM sent CLEAN (R21, R22) -/

section
variable {n : Service} {e : Epoch} {s : State}

/-- The own record SENT with its window, in the entry (R21). -/
def sentRecord (n : Service) (r : ClaimRecord) (s : State) : State :=
  putEntry n { s.entry n with record := some { r with sent := some .sent, window := some 8 } } s

theorem sentRecord_entry (n : Service) (r : ClaimRecord) (s : State) :
    (sentRecord n r s).entry n = { s.entry n with record := some { r with sent := some .sent, window := some 8 } } := by
  rw [sentRecord, putEntry_entry_same]
  exact stamp_of_same rfl rfl rfl

/-- The window starts, or the claim is accepted at once when its release was heard (R21, R28). -/
theorem claimSentClean_of_own {r : ClaimRecord} (h : s.ownClaimAt n e = some r) :
    (r.releaseHeard = false → claimSentClean n e s = sentRecord n r s) ∧
      (r.releaseHeard = true → claimSentClean n e s =
        acceptOwnClaim n { r with sent := some .sent, window := some 8 } (sentRecord n r s)) := by
  have ho : r.claimant = s.station.ownId := (ownClaimAt_some h).2.2.1
  simp only [claimSentClean, h]
  refine ⟨fun hh => if_neg (by simp [hh]), fun hh => (if_pos hh).trans ?_⟩
  exact endWindow_own_accepts (s := sentRecord n r s) ho (windowFails_of_heard hh)

/-- A late report is answered by RELEASE(WITHDRAW) (R22). -/
theorem claimSentClean_late (hs : (s.entry n).state ≠ .claiming) (hh : (s.entry n).state ≠ .held)
    (hp : s.station.phase = .active ∨ s.station.phase = .leaving) :
    claimSentClean n e s = requestRelease n e .withdraw s := by
  simp only [claimSentClean, ownClaimAt_eq_none fun h => absurd h hs]
  exact if_pos ⟨hs, hh, hp⟩

/-- A holding, or a later claim, needs no answer (R22). -/
theorem claimSentClean_superseded (hn : s.ownClaimAt n e = none)
    (hs : (s.entry n).state = .claiming ∨ (s.entry n).state = .held) : claimSentClean n e s = s := by
  simp only [claimSentClean, hn]
  refine if_neg ?_
  rintro ⟨hc, hh, -⟩
  exact hs.elim hc hh

end

/-- The state in which a CLEAN end is counted, before the report of the frame (R124, R140). -/
def countClean (f : Flight) (s : State) : State :=
  (s.withRx (s.rx.afterOwnFrame f.driven)).withTx { s.tx with framesSent := satInc s.tx.framesSent, deafCount := 0 }

theorem attemptClean_of_claim {f : Flight} {n : Service} {e : Epoch} {s : State} (hd : s.tx.state = .driving)
    (hf : s.tx.flight = some f) (hc : f.frame = .claim n e) (hp : s.station.phase.sends = true) :
    attemptClean s = finishFrame (claimSentClean n e (countClean f s)) := by
  have hm : s.station.phase ≠ .muted := by
    intro h
    rw [h] at hp
    cases hp
  simp only [attemptClean, State.drivenFlight, if_pos hd, hf, endClean, withRx_station, if_neg hm, hc]
  rfl

/-- Settles O27: the report finds the claim's record, a late answer is due, or neither; then the frame is finished. -/
theorem cleanClaimEnds : Obligations.CleanClaimEnds := by
  intro s f n e hd hf hc hp hagrees
  have hend := attemptClean_of_claim hd hf hc hp
  have hstep := claimSentClean_entryStep n e (countClean f s)
  have hfin := finishFrame_finished (s := claimSentClean n e (countClean f s)) (by rw [hstep.owner.station]; exact hp)
  rw [← hend] at hfin
  have htx := hfin.tx
  rw [hstep.owner.tx] at htx
  have hentry : (attemptClean s).entry n = (claimSentClean n e (countClean f s)).entry n := entry_of_oc hfin.oc n
  refine ⟨attemptClean s, rfl, ?_, ?_, ?_, ?_, ?_, hfin.timebase.trans hstep.owner.timebase,
    hfin.cond.trans hstep.owner.cond, hfin.peers.trans hstep.owner.peers, hfin.pending.trans hstep.owner.pending,
    hfin.rstLow.trans hstep.owner.rstLow, fun r hs hr he => ?own, fun hs hh hph => ?late, fun hsup => ?superseded⟩
  · rw [htx]
    rfl
  · rw [htx]
    rfl
  · rw [htx]
    rfl
  · rw [hfin.rx, hstep.owner.rx]
    rfl
  · exact State.OtherEntries.trans (t := claimSentClean n e (countClean f s)) hstep.others (.of_oc hfin.oc n)
  case own =>
    obtain ⟨hnew, hheard⟩ := claimSentClean_of_own (s := countClean f s)
      (ownClaimAt_of (s := countClean f s) hs hr (hagrees.claimant_of_claiming hs hr) he)
    refine ⟨fun hh => ?_, fun hh => ?_⟩
    · rw [hentry, hnew hh]
      exact sentRecord_entry ..
    · rw [hentry, hfin.oc, hheard hh, ← he]
      exact acceptOwnClaim_held ..
  case late =>
    have hlate := claimSentClean_late (s := countClean f s) (e := e) hs hh hph
    have hbusy := request_of_busy (s := countClean f s) hp
      (fun q => q.addRelease { service := n, epoch := e, reason := .withdraw }) (by
        show s.tx.state ≠ .ready
        rw [hd]
        decide)
    refine ⟨?_, ?_⟩
    · rw [hfin.oc, hlate, requestRelease, request_oc]
      rfl
    · rw [hend, hlate, requestRelease, hbusy]
      exact finishFrame_releaseWaits (TxQueue.addRelease_has ..)
  case superseded =>
    have hnone : (countClean f s).ownClaimAt n e = none := ownClaimAt_eq_none fun hs r hr => by
      rcases hsup with hheld | ⟨hlater, -⟩
      · exact absurd (hheld.symm.trans hs) (by decide)
      · exact (hlater r hr).2
    have hkept := claimSentClean_superseded hnone (hsup.elim .inr fun h => .inl h.2)
    rw [hkept] at hfin
    exact ⟨hfin.oc, fun hq => ⟨(hfin.idle hq).2.2, (hfin.idle hq).2.1⟩⟩

/-! ## A frame given up (R38, R142) -/

section
variable (n : Service) (e : Epoch) (s : State)

/-- The own claim fails, where its record stands, and nothing happens elsewhere (R38). -/
theorem claimGivenUp_of_own {r : ClaimRecord} (h : s.ownClaimAt n e = some r) :
    s.ClaimFailed n r .giveUp none (claimGivenUp n e s) := by
  simp only [claimGivenUp, h]
  exact failOwnClaim_evaluated ..

theorem claimGivenUp_of_none (h : s.ownClaimAt n e = none) : claimGivenUp n e s = s := by
  simp only [claimGivenUp, h]

theorem claimGivenUp_tx : (claimGivenUp n e s).tx = s.tx := by
  cases h : s.ownClaimAt n e with
  | none => rw [claimGivenUp_of_none n e s h]
  | some r => exact (claimGivenUp_of_own n e s h).tx

theorem claimGivenUp_events_grow : s.host.events <+: (claimGivenUp n e s).host.events := by
  cases h : s.ownClaimAt n e with
  | none => rw [claimGivenUp_of_none n e s h]
  | some r =>
    rw [(claimGivenUp_of_own n e s h).host]
    exact post_events_grow ..

end

/-- The state in which a give-up is counted (R142). -/
def countGiveUp (s : State) : State := s.withTx { s.tx with giveUps := satInc s.tx.giveUps }

/-- TX_GIVEUP is posted for a CLAIM, with its service and epoch (R142). -/
def postGiveUpOfClaim (n : Service) (e : Epoch) (s : State) : State :=
  post .txGiveUp (some n) none (some e) (some (.frame .claim)) (countGiveUp s)

/-- TX_GIVEUP is posted for a frame of another kind (R142). -/
def postGiveUpOf (k : FrameKind) (s : State) : State := post .txGiveUp none none none (some (.frame k)) (countGiveUp s)

theorem giveUp_of_claim {f : Flight} {n : Service} {e : Epoch} (h : f.frame = .claim n e) (s : State) :
    giveUp f s = finishFrame (claimGivenUp n e (postGiveUpOfClaim n e s)) := by
  simp only [giveUp, h]
  rfl

theorem giveUp_of_other {f : Flight} (h : ∀ n e, f.frame ≠ .claim n e) (s : State) :
    giveUp f s = finishFrame (postGiveUpOf f.frame.kind s) := by
  unfold giveUp
  split
  · next n e hf => exact absurd hf (h n e)
  · next hf => rw [hf]; rfl
  · next hf => rw [hf]; rfl
  · next hf => rw [hf]; rfl

/-- A frame has been given up (R142): counted, TX_GIVEUP posted first, an own claim failed, and the next head taken. -/
structure State.GaveUp (f : Flight) (s t : State) : Prop where
  tx : t.tx =
    { s.tx with
      giveUps := satInc s.tx.giveUps, backOff := none, state := t.tx.state, queue := t.tx.queue, flight := t.tx.flight }
  rx : t.rx = s.rx
  timebase : t.timebase = s.timebase
  cond : t.cond = s.cond
  peers : t.peers = s.peers
  pending : t.pending = s.pending
  rstLow : t.rstLow = s.rstLow
  next : ∀ g q, s.tx.queue.takeHead = some (g, q) →
    t.tx.state = .waiting ∧ t.tx.queue = q ∧
      t.tx.flight = some { frame := g, content := none, seq := none, attempts := 0 }
  idle : s.tx.queue = emptyQueue → t.tx.state = .ready ∧ t.tx.flight = none ∧ t.tx.queue = emptyQueue
  other : (∀ n e, f.frame ≠ .claim n e) →
    t.oc = s.oc ∧
      (s.CanRecord 1 →
        s.host.events ++ [s.event .txGiveUp none none none (some (.frame f.frame.kind))] <+: t.host.events)
  claim : ∀ n e, f.frame = .claim n e →
    s.OtherEntries t n ∧
      (s.CanRecord 1 →
        s.host.events ++ [s.event .txGiveUp (some n) none (some e) (some (.frame .claim))] <+: t.host.events)
  failed : ∀ n e, f.frame = .claim n e → ∀ r, s.ownClaimAt n e = some r →
    s.SettledAs (t.entry n) ∧ (t.entry n).owner = (s.entry n).owner ∧ (t.entry n).epoch = (s.entry n).epoch ∧
      (t.entry n).retryHold = some 100 ∧
      (s.CanRecord 2 → s.event .claimFailed (some n) none (some e) (some (.claimFailed .giveUp)) ∈ t.host.events)

theorem giveUp_gaveUp_claim {f : Flight} {n : Service} {e : Epoch} {s : State} (hf : f.frame = .claim n e)
    (hp : s.station.phase.sends = true) : s.GaveUp f (giveUp f s) := by
  have hstep := claimGivenUp_entryStep n e (postGiveUpOfClaim n e s)
  have htx := claimGivenUp_tx n e (postGiveUpOfClaim n e s)
  have hgrow := claimGivenUp_events_grow n e (postGiveUpOfClaim n e s)
  have hfin := finishFrame_finished (s := claimGivenUp n e (postGiveUpOfClaim n e s))
    (by rw [hstep.owner.station]; exact hp)
  rw [← giveUp_of_claim hf] at hfin
  have hfintx := hfin.tx
  have hnext := hfin.next
  have hidle := hfin.idle
  rw [htx] at hfintx hnext hidle
  refine ⟨hfintx, hfin.rx.trans hstep.owner.rx, hfin.timebase.trans hstep.owner.timebase,
    hfin.cond.trans hstep.owner.cond, hfin.peers.trans hstep.owner.peers, hfin.pending.trans hstep.owner.pending,
    hfin.rstLow.trans hstep.owner.rstLow, hnext, hidle, fun h => absurd hf (h n e), fun n' e' hf' => ?_,
    fun n' e' hf' r hr => ?_⟩
  · obtain ⟨rfl, rfl⟩ := TxFrame.claim.inj (hf.symm.trans hf')
    refine ⟨State.OtherEntries.trans (t := claimGivenUp n e (postGiveUpOfClaim n e s)) hstep.others (.of_oc hfin.oc n),
      fun hrec => ?_⟩
    have hpost := State.CanRecord.post_events (s := countGiveUp s) (k := 0) .txGiveUp (some n) none (some e)
      (some (.frame .claim)) hrec
    exact hpost ▸ hgrow.trans hfin.events
  · obtain ⟨rfl, rfl⟩ := TxFrame.claim.inj (hf.symm.trans hf')
    have hfail := claimGivenUp_of_own n e (postGiveUpOfClaim n e s) hr
    have hepoch := (ownClaimAt_some hr).2.2.2
    rw [entry_of_oc hfin.oc n]
    refine ⟨hfail.settled, hfail.owner, hfail.epoch, hfail.retryHold, fun hrec => hfin.events.subset ?_⟩
    rw [hfail.events (State.CanRecord.post (s := countGiveUp s) (k := 1) _ _ _ _ _ hrec), hepoch]
    exact List.mem_append_right _ (List.mem_singleton_self _)

theorem giveUp_gaveUp {f : Flight} {s : State} (hp : s.station.phase.sends = true) : s.GaveUp f (giveUp f s) := by
  by_cases hf : ∃ n e, f.frame = .claim n e
  · obtain ⟨n, e, hf⟩ := hf
    exact giveUp_gaveUp_claim hf hp
  · simp only [not_exists] at hf
    have hfin := finishFrame_finished (s := postGiveUpOf f.frame.kind s) hp
    rw [← giveUp_of_other hf] at hfin
    refine ⟨hfin.tx, hfin.rx, hfin.timebase, hfin.cond, hfin.peers, hfin.pending, hfin.rstLow, hfin.next, hfin.idle,
      fun _ => ⟨hfin.oc, fun hrec => ?_⟩, fun n e h => absurd h (hf n e), fun n e h => absurd h (hf n e)⟩
    have hpost := State.CanRecord.post_events (s := countGiveUp s) (k := 0) .txGiveUp none none none
      (some (.frame f.frame.kind)) hrec
    exact hpost ▸ hfin.events

/-- The state in which a collision is counted, with the receiver after the finding's bit time (R141). -/
def countCollision (r : Receiver) (s : State) : State :=
  (s.withRx r).withTx { s.tx with collisions := satInc s.tx.collisions, deafCount := 0 }

/-- A collision found by no frame end, at the eighth attempt, gives the frame up (R142). -/
theorem attemptCollided_of_eighth {s : State} {f : Flight} {line : List Symbol} {r : Receiver} {ev : LineEvent}
    (hd : s.tx.state = .driving) (hf : s.tx.flight = some f) (ha : f.attempts = 8)
    (hp : s.station.phase.sends = true) (hj : s.judge f line = some (.collided, r, ev, []))
    (hev : ∀ c past, ev ≠ .frameEnd c past) : attemptCollided line s = giveUp f (countCollision r s) := by
  have hend : endCollided f (s.withRx r) = giveUp f (countCollision r s) := by
    have hm : s.station.phase ≠ .muted := by
      intro h
      rw [h] at hp
      cases hp
    simp only [endCollided, withRx_station]
    rw [if_neg hm, if_neg (by rw [ha]; decide)]
    rfl
  simp only [attemptCollided, State.drivenFlight, if_pos hd, hf, hj]
  cases ev with
  | frameEnd c past => exact absurd rfl (hev c past)
  | quiet => exact hend
  | idle => exact hend
  | codeError => exact hend

/-- Settles O30: the collision is counted and the frame given up. -/
theorem eighthAttemptGivesUp : Obligations.EighthAttemptGivesUp := by
  intro s f line r ev hd hf ha hp hj hev
  have hend := attemptCollided_of_eighth hd hf ha hp hj hev
  have hgone := giveUp_gaveUp (f := f) (s := countCollision r s) hp
  rw [← hend] at hgone
  have htx := hgone.tx
  refine ⟨attemptCollided line s, rfl, ?_, ?_, ?_, ?_, ?_, hgone.rx, hgone.timebase, hgone.cond, hgone.peers,
    hgone.pending, hgone.rstLow, hgone.next, hgone.idle, hgone.other, fun n e hc => ?_⟩
  · rw [htx]
    rfl
  · rw [htx]
    rfl
  · rw [htx]
    rfl
  · rw [htx]
    rfl
  · rw [htx]
  · obtain ⟨hothers, hevents⟩ := hgone.claim n e hc
    refine ⟨hothers, hevents, fun x hs hx ho he => ?_⟩
    obtain ⟨hsettled, howner, hepoch, hhold, -⟩ :=
      hgone.failed n e hc x (ownClaimAt_of (s := countCollision r s) hs hx ho he)
    exact ⟨hsettled, howner, hepoch, hhold⟩

end Sys2Proof.Machine

/-! LEAVE and MUTED (R111, R114, R144): what they do to each entry of the Service Table, how many events they post, and what
the Transmitter is left with; with them, a DEAF attempt (R141 to R143). -/

namespace Sys2Proof.Machine

/-! ## An operation on each service, seen at one service -/

/-- Where an operation on each service, each part on its own entry, reads at service `n` what `SameAt` keeps, entry `n` ends
as its own part leaves it. -/
theorem forEach_at {f : Service → State → State} (hstep : ∀ n s, EntryStep n s (f n s))
    (hsame : ∀ n s t, s.SameAt n t → (f n s).SameAt n (f n t)) (s : State) (n : Service) :
    (f n s).SameEntry n (forEach f s) :=
  forEach_entries (pre := fun t m => s.SameAt m t) (post := fun t m => (f m s).SameEntry m t) hstep
    (fun _ _ _ _ k hm h => h.other k hm)
    (fun _ _ _ _ k hm h => ⟨(k.others _ hm).1.trans h.entry, (k.others _ hm).2.trans h.drv⟩)
    (fun m t h => ⟨(hsame m s t h).entry, (hsame m s t h).drv⟩) (fun m => .refl m s) n

section
variable {n : Service} {s t : State}

theorem State.SameAt.failOwnClaim (h : s.SameAt n t) (r : ClaimRecord) (c : FailCause) (p : Option StationId) :
    (failOwnClaim n r c p s).SameAt n (Machine.failOwnClaim n r c p t) := by
  rw [failOwnClaim_eq, failOwnClaim_eq, h.settled, h.entry]
  exact (h.post ..).putEntry _

theorem State.SameAt.muteEntry (h : s.SameAt n t) : (muteEntry n s).SameAt n (Machine.muteEntry n t) := by
  simp only [Machine.muteEntry, h.entry]
  split
  · exact (h.leaveHeld ..).removeWtr
  · simp only [dropRecord, h.entry, h.settled]
    exact (h.changeEntry _).removeWtr
  · exact h.removeWtr

theorem State.SameAt.leaveEntry (h : s.SameAt n t) : (leaveEntry n s).1.SameAt n (Machine.leaveEntry n t).1 := by
  simp only [Machine.leaveEntry, h.entry]
  split
  · exact (h.leaveHeld ..).removeWtr
  · exact (h.failOwnClaim ..).removeWtr
  · exact h.removeWtr

end

/-! ## One entry at LEAVE and at MUTED -/

theorem removeWtr_drv_off {n : Service} {s : State} (h : (s.entry n).state ≠ .held) :
    look (removeWtr n s).oc.drv n = false := by
  rw [removeWtr, putEntry_drv_same]
  exact decide_eq_false h

section
variable {n : Service} {s : State}

/-- A HELD entry that LEAVE or MUTED lets go: VACANT with its epoch, and without a WTR timer (R111, R114). -/
theorem letGo_held (hs : (s.entry n).state = .held) (d : DropReason) :
    (removeWtr n (leaveHeld n none (s.entry n).epoch .vacant (s.entry n).retryHold d s)).entry n =
        { s.entry n with state := .vacant, owner := none, wtr := none, changed := s.timebase } ∧
      look (removeWtr n (leaveHeld n none (s.entry n).epoch .vacant (s.entry n).retryHold d s)).oc.drv n = false := by
  have he : (leaveHeld n none (s.entry n).epoch .vacant (s.entry n).retryHold d s).entry n =
      { s.entry n with state := .vacant, owner := none, changed := s.timebase } := by
    rw [leaveHeld, post_entry, putEntry_entry_same, stamp_of_changed (.inl (by simp [hs]))]
  refine ⟨?_, removeWtr_drv_off ?_⟩
  · rw [removeWtr_entry, he]
  · rw [he]
    simp

theorem letGo_other (hs : (s.entry n).state ≠ .held) :
    (removeWtr n s).entry n = { s.entry n with wtr := none } ∧ look (removeWtr n s).oc.drv n = false :=
  ⟨removeWtr_entry n s, removeWtr_drv_off hs⟩

theorem muteEntry_of_held (hs : (s.entry n).state = .held) :
    muteEntry n s = removeWtr n (leaveHeld n none (s.entry n).epoch .vacant (s.entry n).retryHold .muted s) := by
  simp only [muteEntry, hs]

theorem muteEntry_of_claiming {r : ClaimRecord} (hs : (s.entry n).state = .claiming) (hr : (s.entry n).record = some r) :
    muteEntry n s = removeWtr n (dropRecord n s) := by
  simp only [muteEntry, hs, hr]

theorem muteEntry_of_other (hs : (s.entry n).state ≠ .held) (hc : (s.entry n).state ≠ .claiming) :
    muteEntry n s = removeWtr n s := by
  simp only [muteEntry]
  split
  · next h => exact absurd h hs
  · next h _ => exact absurd h hc
  · rfl

theorem leaveEntry_of_held (hs : (s.entry n).state = .held) :
    leaveEntry n s =
      (removeWtr n (leaveHeld n none (s.entry n).epoch .vacant (s.entry n).retryHold .leave s),
        some { service := n, epoch := (s.entry n).heldEpoch, reason := .leave }) := by
  simp only [leaveEntry, hs]

theorem leaveEntry_of_claiming {r : ClaimRecord} (hs : (s.entry n).state = .claiming)
    (hr : (s.entry n).record = some r) :
    leaveEntry n s =
      (removeWtr n (failOwnClaim n r .withdrawn none s),
        if r.sent = some .sent then some { service := n, epoch := r.epoch, reason := .withdraw } else none) := by
  simp only [leaveEntry, hs, hr, withdrawClaim]

theorem leaveEntry_of_other (hs : (s.entry n).state ≠ .held) (hc : (s.entry n).state ≠ .claiming) :
    leaveEntry n s = (removeWtr n s, none) := by
  simp only [leaveEntry]
  split
  · next h => exact absurd h hs
  · next h _ => exact absurd h hc
  · rfl

/-- The own claim that MUTED ends without a failure (R41, case 5). -/
theorem letGo_dropped (hs : (s.entry n).state = .claiming) :
    (removeWtr n (dropRecord n s)).entry n =
        { s.settled (s.entry n) with wtr := none, changed := s.timebase } ∧
      look (removeWtr n (dropRecord n s)).oc.drv n = false := by
  have he : (dropRecord n s).entry n = { s.settled (s.entry n) with changed := s.timebase } := by
    rw [dropRecord_eq, putEntry_entry_same, stamp_of_changed (.inl ?_)]
    rw [hs]
    exact settledState_ne_claiming s (s.entry n).owner
  refine ⟨?_, removeWtr_drv_off ?_⟩
  · rw [removeWtr_entry, he]
  · rw [he]
    exact settledState_ne_held s (s.entry n).owner

/-- The own claim that LEAVE withdraws or abandons (R35, R36). -/
theorem letGo_failed (hs : (s.entry n).state = .claiming) (r : ClaimRecord) :
    (removeWtr n (failOwnClaim n r .withdrawn none s)).entry n =
        { s.settled (s.entry n) with retryHold := some 100, wtr := none, changed := s.timebase } ∧
      look (removeWtr n (failOwnClaim n r .withdrawn none s)).oc.drv n = false := by
  have he := failOwnClaim_entry_of_claiming n r .withdrawn none s hs
  refine ⟨?_, removeWtr_drv_off ?_⟩
  · rw [removeWtr_entry, he]
  · rw [he]
    exact settledState_ne_held s (s.entry n).owner

end

/-! ## Room for the events (R153) -/

theorem State.CanRecord.of_host {s t : State} {k : Nat} (h : s.CanRecord k) (ht : t.host = s.host) : t.CanRecord k := by
  unfold State.CanRecord
  rw [ht]
  exact h

theorem State.CanRecord.le {s : State} {j k : Nat} (h : s.CanRecord k) (hj : j ≤ k) : s.CanRecord j :=
  ⟨h.1, by have := h.2; omega⟩

theorem leaveHeld_canRecord {s : State} {k : Nat} (h : s.CanRecord (k + 1)) (n : Service) (o : Option StationId)
    (e : Option Epoch) (st : EntryState) (hold : Option Nat) (d : DropReason) :
    (leaveHeld n o e st hold d s).CanRecord k :=
  State.CanRecord.post (s := putEntry ..) _ _ _ _ _ (h.of_host rfl)

theorem muteEntry_canRecord {s : State} {k : Nat} (n : Service) (h : s.CanRecord (k + 1)) :
    (muteEntry n s).CanRecord k := by
  simp only [muteEntry]
  split
  · exact (leaveHeld_canRecord h ..).of_host rfl
  · rw [dropRecord_eq]
    exact (h.le (Nat.le_succ k)).of_host rfl
  · exact (h.le (Nat.le_succ k)).of_host rfl

theorem leaveEntry_canRecord {s : State} {k : Nat} (n : Service) (h : s.CanRecord (k + 1)) :
    (leaveEntry n s).1.CanRecord k := by
  simp only [leaveEntry]
  split
  · exact (leaveHeld_canRecord h ..).of_host rfl
  · next r _ _ =>
    exact (State.CanRecord.post (s := s) _ _ _ _ _ h).of_host (failOwnClaim_host n r .withdrawn none s)
  · exact (h.le (Nat.le_succ k)).of_host rfl

/-- An operation that posts at most one event for each service needs room for sixteen. -/
theorem forEach_canRecord {f : Service → State → State}
    (hf : ∀ n s k, s.CanRecord (k + 1) → (f n s).CanRecord k) {s : State} {k : Nat} (h : s.CanRecord (k + 16)) :
    (forEach f s).CanRecord k := by
  have hlist : ∀ (ns : List Service) (t : State), t.CanRecord (k + ns.length) →
      (ns.foldl (fun s n => f n s) t).CanRecord k := by
    intro ns
    induction ns with
    | nil => exact fun t h => h
    | cons n ns ih => exact fun t h => ih _ (hf n t _ h)
  exact hlist allSixteen s (by simpa [allSixteen] using h)

theorem refreshIsolated_canRecord {s : State} {k : Nat} (j : Option StationId) (h : s.CanRecord (k + 1)) :
    (refreshIsolated j s).CanRecord k := by
  simp only [refreshIsolated]
  split
  · exact h.le (Nat.le_succ k)
  · split
    · exact State.CanRecord.post (s := s.refreshed) _ _ _ _ _ h
    · split
      · exact State.CanRecord.post (s := s.refreshed) _ _ _ _ _ h
      · exact State.CanRecord.post (s := s.refreshed) _ _ _ _ _ h

/-! ## The end of a phase change that lets everything go (R98, R111, R114) -/

/-- The table has let go, in the state `r`: the Transmitter takes the content `x`, the isolated flag is refreshed, and the
phase's event is posted last. -/
def standDown (k : EventKind) (d : Detail) (x : Transmitter) (r : State) : State :=
  post k none none none (some d) (refreshIsolated none (r.withTx x))

section
variable {k : EventKind} {d : Detail} {x : Transmitter} {p : Phase} {s r : State}

theorem standDown_oc : (standDown k d x r).oc = r.oc := by
  rw [standDown, post_oc, refreshIsolated_oc, withTx_oc]

theorem standDown_tx : (standDown k d x r).tx = x := by
  rw [standDown, post_tx, refreshIsolated]
  split
  · rfl
  · split
    · rfl
    · rfl

/-- What the phase change leaves of the other blocks. -/
theorem standDown_blocks (hp : p ≠ .active) (h : OwnerStep (stopTimers (setPhase p s)) r) :
    (standDown k d x r).station = { s.station with phase := p, listenTimer := none, statusTimer := none } ∧
      (standDown k d x r).peers = { s.peers with isolated := false } ∧
      (standDown k d x r).timebase = s.timebase ∧ (standDown k d x r).cond = s.cond ∧
      (standDown k d x r).rx = s.rx ∧ (standDown k d x r).pending = s.pending ∧
      (standDown k d x r).rstLow = s.rstLow ∧
      (standDown k d x r).host =
        { s.host with
          events := (standDown k d x r).host.events, lost := (standDown k d x r).host.lost
          irq := (standDown k d x r).host.irq } := by
  have hflag := (refreshIsolated_step none (r.withTx x)).trans (post_step k none none none (some d) _)
  have hoff : (r.withTx x).isolatedNow = false := isolatedNow_of_not_active (by
    rw [withTx_station, h.station]
    exact hp)
  refine ⟨hflag.station.trans h.station, ?_, hflag.timebase.trans h.timebase, hflag.cond.trans h.cond,
    hflag.rx.trans h.rx, hflag.pending.trans h.pending, hflag.rstLow.trans h.rstLow, ?_⟩
  · refine hflag.peers.trans ?_
    simp only [State.refreshed, withPeers_peers, hoff, withTx_peers, h.peers]
    rfl
  · have hhost := hflag.host
    rw [show (r.withTx x).refreshed.host = r.host from rfl, h.host] at hhost
    exact hhost

/-- The phase's event is the last one. -/
theorem standDown_last (ht : r.timebase = s.timebase) (h : r.CanRecord 2) :
    (standDown k d x r).host.events.getLast? = some (s.event k none none none (some d)) := by
  have hroom : (refreshIsolated none (r.withTx x)).CanRecord 1 := refreshIsolated_canRecord none (h.of_host rfl)
  have htime : (refreshIsolated none (r.withTx x)).timebase = s.timebase :=
    (refreshIsolated_step none (r.withTx x)).timebase.trans ht
  rw [standDown, State.CanRecord.post_events (k := 0) _ _ _ _ _ hroom, List.getLast?_concat]
  simp only [State.event, htime]

end

/-! ## MUTED (R114, R144) -/

/-- The table after MUTED has let everything go (R114, step 1). -/
def muteTable (s : State) : State := forEach muteEntry (stopTimers (setPhase .muted s))

/-- The Transmitter at MUTED, where no attempt is driven, holds nothing (R144, case 3). -/
def mutedTx (x : Transmitter) : Transmitter :=
  { x with state := .ready, queue := emptyQueue, flight := none, backOff := none }

section
variable {s : State}

theorem muteStation_eq (c : MuteCause) (h : s.tx.state ≠ .driving) :
    muteStation c s = standDown .muted (.muted c) (mutedTx s.tx) (muteTable s) := by
  have htx : (muteTable s).tx = s.tx := forEach_muteEntry_tx _
  have hmute : muteTransmitter (muteTable s) = (muteTable s).withTx (mutedTx s.tx) := by
    unfold muteTransmitter
    rw [htx, if_neg h]
    rfl
  unfold muteStation
  rw [show forEach muteEntry (stopTimers (setPhase .muted s)) = muteTable s from rfl, hmute]
  rfl

theorem muteTable_step (s : State) : OwnerStep (stopTimers (setPhase .muted s)) (muteTable s) :=
  forEach_step muteEntry_step _

theorem muteTable_at (s : State) (n : Service) :
    (muteEntry n (stopTimers (setPhase .muted s))).SameEntry n (muteTable s) :=
  forEach_at muteEntry_entryStep (fun _ _ _ h => h.muteEntry) _ n

/-- Each entry after MUTED, by the state it stood in (R114, step 1; R41, case 5). -/
theorem muteTable_entry {n : Service} (h : s.EntryAgrees n) :
    look (muteTable s).oc.drv n = false ∧
      ((s.entry n).state = .held → (muteTable s).entry n =
        { s.entry n with state := .vacant, owner := none, wtr := none, changed := s.timebase }) ∧
      ((s.entry n).state = .claiming → (muteTable s).entry n =
        { s.settled (s.entry n) with wtr := none, changed := s.timebase }) ∧
      ((s.entry n).state ≠ .held → (s.entry n).state ≠ .claiming →
        (muteTable s).entry n = { s.entry n with wtr := none }) := by
  have hat := muteTable_at s n
  rw [hat.entry, hat.drv]
  by_cases hs : (s.entry n).state = .held
  · rw [muteEntry_of_held (s := stopTimers (setPhase .muted s)) hs]
    obtain ⟨he, hd⟩ := letGo_held (s := stopTimers (setPhase .muted s)) hs .muted
    exact ⟨hd, fun _ => he, fun hc => absurd (hs.symm.trans hc) (by decide), fun hn => absurd hs hn⟩
  · by_cases hc : (s.entry n).state = .claiming
    · obtain ⟨r, hr⟩ := Option.ne_none_iff_exists'.1 (h.record_ne_none (.inl hc))
      rw [muteEntry_of_claiming (s := stopTimers (setPhase .muted s)) hc hr]
      obtain ⟨he, hd⟩ := letGo_dropped (s := stopTimers (setPhase .muted s)) hc
      exact ⟨hd, fun hn => absurd hn hs, fun _ => he, fun _ hn => absurd hc hn⟩
    · rw [muteEntry_of_other (s := stopTimers (setPhase .muted s)) hs hc]
      obtain ⟨he, hd⟩ := letGo_other (s := stopTimers (setPhase .muted s)) hs
      exact ⟨hd, fun hn => absurd hn hs, fun hn => absurd hn hc, fun _ _ => he⟩

/-- MUTED changes neither an epoch nor a retry hold, and leaves no WTR timer (R114). -/
theorem muteTable_kept {n : Service} (h : s.EntryAgrees n) :
    ((muteTable s).entry n).wtr = none ∧ ((muteTable s).entry n).epoch = (s.entry n).epoch ∧
      ((muteTable s).entry n).retryHold = (s.entry n).retryHold := by
  obtain ⟨-, hheld, hclaiming, hother⟩ := muteTable_entry h
  by_cases hs : (s.entry n).state = .held
  · rw [hheld hs]
    exact ⟨rfl, rfl, rfl⟩
  · by_cases hc : (s.entry n).state = .claiming
    · rw [hclaiming hc]
      exact ⟨rfl, rfl, rfl⟩
    · rw [hother hs hc]
      exact ⟨rfl, rfl, rfl⟩

theorem muteTable_canRecord {k : Nat} (h : s.CanRecord (k + 16)) : (muteTable s).CanRecord k :=
  forEach_canRecord (fun n _ _ h => muteEntry_canRecord n h) (h.of_host rfl)

end

/-! ## DEAF attempts (R141 to R144) -/

/-- The state in which a DEAF attempt is counted (R141, R143). -/
def countDeaf (s : State) : State :=
  s.withTx
    { s.tx with
      deafAttempts := satInc s.tx.deafAttempts, deafCount := min (s.tx.deafCount + 1) Config.deafLimit }

/-- The state in which the DEAF limit has been reached and MUTED is asked for (R143). -/
def deafHalted (s : State) : State := (countDeaf s).withTx { (countDeaf s).tx with state := .halted }

theorem countDeaf_below {s : State} (hc : s.tx.deafCount < 2) : (countDeaf s).tx.deafCount = s.tx.deafCount + 1 :=
  Nat.min_eq_left (by show s.tx.deafCount + 1 ≤ 3; omega)

theorem phase_ne_muted {s : State} (h : s.station.phase.sends = true) : s.station.phase ≠ .muted := by
  intro hm
  rw [hm] at h
  cases h

section
variable {s : State} {f : Flight} (hd : s.tx.state = .driving) (hf : s.tx.flight = some f)
include hd hf

theorem attemptDeaf_of_driven : attemptDeaf s = endDeaf f s := by
  simp only [attemptDeaf, State.drivenFlight, if_pos hd, hf]

/-- Below the deaf limit the attempts decide: a back-off of one slot, or the frame is given up (R141, R142). -/
theorem attemptDeaf_below (hm : s.station.phase ≠ .muted) (hc : s.tx.deafCount < 2) :
    attemptDeaf s = if f.attempts < 8 then backOff 32 (countDeaf s) else giveUp f (countDeaf s) := by
  have hlim : min (s.tx.deafCount + 1) Config.deafLimit ≠ Config.deafLimit := by
    show min (s.tx.deafCount + 1) 3 ≠ 3
    omega
  rw [attemptDeaf_of_driven hd hf]
  simp only [endDeaf]
  rw [if_neg hm, if_neg hlim]
  rfl

/-- At the deaf limit MUTED is asked for (R143). -/
theorem attemptDeaf_mutes (hp : s.station.phase.sends = true) (hc : s.tx.deafCount = 2) :
    attemptDeaf s = standDown .muted (.muted .deaf) (mutedTx (deafHalted s).tx) (muteTable (deafHalted s)) := by
  rw [attemptDeaf_of_driven hd hf, ← muteStation_eq .deaf (by simp [deafHalted])]
  simp only [endDeaf]
  rw [if_neg (phase_ne_muted hp), if_pos (by rw [hc]; rfl)]
  exact if_pos hp

end

/-- Settles O31: below the deaf limit the attempts decide; at it the table lets go entry by entry, the Transmitter is
emptied, and sixteen drops and the isolated flag leave room for the last event. -/
theorem deafAttempts : Obligations.DeafAttempts := by
  intro s f hd hf
  refine ⟨fun hc ha hm => ?backsOff, fun hc ha hp => ?givesUp, fun hc hp hagree => ?mutes⟩
  case backsOff =>
    refine congrArg Host.Outcome.next ((attemptDeaf_below hd hf hm hc).trans ((if_pos ha).trans ?_))
    rw [← countDeaf_below hc]
    rfl
  case givesUp =>
    have hend := attemptDeaf_below hd hf (phase_ne_muted hp) hc
    rw [if_neg (by rw [ha]; decide)] at hend
    have hgone := giveUp_gaveUp (f := f) (s := countDeaf s) hp
    rw [← hend] at hgone
    have htx := hgone.tx
    refine ⟨attemptDeaf s, rfl, ?_, ?_, ?_, ?_, ?_, ?_, ?_, hgone.rx, hgone.timebase, hgone.cond, hgone.peers,
      hgone.pending, hgone.rstLow, hgone.next, hgone.idle, hgone.other, fun n e hcl => ?_⟩
    · rw [htx]
      rfl
    · rw [htx]
      exact countDeaf_below hc
    · rw [htx]
      rfl
    · rw [htx]
      rfl
    · rw [htx]
      rfl
    · rw [htx]
      rfl
    · rw [htx]
    · obtain ⟨hothers, hevents⟩ := hgone.claim n e hcl
      exact ⟨hothers, hevents, fun x hs hx ho he =>
        hgone.failed n e hcl x (ownClaimAt_of (s := countDeaf s) hs hx ho he)⟩
  case mutes =>
    have hend := attemptDeaf_mutes hd hf hp hc
    obtain ⟨hstation, hpeers, htime, hcond, hrx, hpending, hrst, -⟩ :=
      standDown_blocks (k := .muted) (d := .muted .deaf) (x := mutedTx (deafHalted s).tx) (by decide)
        (muteTable_step (deafHalted s))
    have hoc := standDown_oc (k := .muted) (d := .muted .deaf) (x := mutedTx (deafHalted s).tx)
      (r := muteTable (deafHalted s))
    rw [← hend] at hstation hpeers htime hcond hrx hpending hrst hoc
    refine ⟨attemptDeaf s, rfl, hstation, ?_, htime, hcond, hrx, hpending, hrst, hpeers, fun n => ?_, fun hrec => ?_⟩
    · rw [hend, standDown_tx]
      simp [mutedTx, deafHalted, countDeaf, hc, Config.deafLimit]
    · have hagrees : (deafHalted s).EntryAgrees n := hagree n
      obtain ⟨hdrv, hheld, hclaiming, hother⟩ := muteTable_entry hagrees
      obtain ⟨hwtr, hepoch, hhold⟩ := muteTable_kept hagrees
      rw [entry_of_oc hoc n, hoc]
      refine ⟨hdrv, hwtr, hepoch, hhold, fun hs => ?_, fun hs => ?_, hother⟩
      · rw [hheld hs]
        exact ⟨rfl, rfl, rfl⟩
      · rw [hclaiming hs]
        exact ⟨(settledAs_settled s (s.entry n)).of_fields rfl rfl rfl, rfl⟩
    · rw [hend]
      exact standDown_last (s := s) (muteTable_step (deafHalted s)).timebase
        (muteTable_canRecord (State.CanRecord.of_host (s := s) hrec rfl))

/-! ## LEAVE (R111, R144) -/

/-- The table after LEAVE has let everything go, with the RELEASE entries to queue (R111, steps 1 and 2). -/
def leaveTable (s : State) : State × List ReleaseEntry := leaveEntries allSixteen (stopTimers (setPhase .leaving s))

section
variable {s : State}

theorem leaveTable_eq (s : State) :
    (leaveTable s).1 = forEach (fun n s => (leaveEntry n s).1) (stopTimers (setPhase .leaving s)) :=
  leaveEntries_fst ..

theorem leaveStation_eq (s : State) :
    leaveStation s =
      standDown .phaseChanged (.phase .leaving) (leaveTransmitter (leaveTable s).2 (leaveTable s).1).tx
        (leaveTable s).1 := by
  unfold standDown
  rw [← leaveTransmitter_fields]
  rfl

theorem leaveTable_step (s : State) : OwnerStep (stopTimers (setPhase .leaving s)) (leaveTable s).1 :=
  leaveEntries_step ..

theorem leaveTable_at (s : State) (n : Service) :
    (leaveEntry n (stopTimers (setPhase .leaving s))).1.SameEntry n (leaveTable s).1 := by
  rw [leaveTable_eq]
  exact forEach_at (f := fun n s => (leaveEntry n s).1) leaveEntry_entryStep (fun _ _ _ h => h.leaveEntry) _ n

/-- Each entry after LEAVE, by the state it stood in (R111, step 1). -/
theorem leaveTable_entry {n : Service} (h : s.EntryAgrees n) :
    look (leaveTable s).1.oc.drv n = false ∧
      ((s.entry n).state = .held → (leaveTable s).1.entry n =
        { s.entry n with state := .vacant, owner := none, wtr := none, changed := s.timebase }) ∧
      ((s.entry n).state = .claiming → (leaveTable s).1.entry n =
        { s.settled (s.entry n) with retryHold := some 100, wtr := none, changed := s.timebase }) ∧
      ((s.entry n).state ≠ .held → (s.entry n).state ≠ .claiming →
        (leaveTable s).1.entry n = { s.entry n with wtr := none }) := by
  have hat := leaveTable_at s n
  rw [hat.entry, hat.drv]
  by_cases hs : (s.entry n).state = .held
  · rw [leaveEntry_of_held (s := stopTimers (setPhase .leaving s)) hs]
    obtain ⟨he, hd⟩ := letGo_held (s := stopTimers (setPhase .leaving s)) hs .leave
    exact ⟨hd, fun _ => he, fun hc => absurd (hs.symm.trans hc) (by decide), fun hn => absurd hs hn⟩
  · by_cases hc : (s.entry n).state = .claiming
    · obtain ⟨r, hr⟩ := Option.ne_none_iff_exists'.1 (h.record_ne_none (.inl hc))
      rw [leaveEntry_of_claiming (s := stopTimers (setPhase .leaving s)) hc hr]
      obtain ⟨he, hd⟩ := letGo_failed (s := stopTimers (setPhase .leaving s)) hc r
      exact ⟨hd, fun hn => absurd hn hs, fun _ => he, fun _ hn => absurd hc hn⟩
    · rw [leaveEntry_of_other (s := stopTimers (setPhase .leaving s)) hs hc]
      obtain ⟨he, hd⟩ := letGo_other (s := stopTimers (setPhase .leaving s)) hs
      exact ⟨hd, fun hn => absurd hn hs, fun hn => absurd hn hc, fun _ _ => he⟩

theorem leaveTable_epoch {n : Service} (h : s.EntryAgrees n) :
    ((leaveTable s).1.entry n).epoch = (s.entry n).epoch := by
  obtain ⟨-, hheld, hclaiming, hother⟩ := leaveTable_entry h
  by_cases hs : (s.entry n).state = .held
  · rw [hheld hs]
  · by_cases hc : (s.entry n).state = .claiming
    · rw [hclaiming hc]
      rfl
    · rw [hother hs hc]

theorem leaveTable_canRecord {k : Nat} (h : s.CanRecord (k + 16)) : (leaveTable s).1.CanRecord k := by
  rw [leaveTable_eq]
  exact forEach_canRecord (fun n _ _ h => leaveEntry_canRecord n h) (h.of_host rfl)

end

/-! ## The RELEASE entries of LEAVE (R111, step 2; R133) -/

/-- What LEAVE has an entry release depends on the entry alone. -/
theorem leaveEntry_snd_congr {n : Service} {s t : State} (h : t.entry n = s.entry n) :
    (leaveEntry n t).2 = (leaveEntry n s).2 := by
  simp only [leaveEntry, h]
  split
  · rfl
  · simp only [withdrawClaim]
  · rfl

theorem leaveEntry_service {n : Service} {s : State} {x : ReleaseEntry} (h : (leaveEntry n s).2 = some x) :
    x.service = n := by
  simp only [leaveEntry] at h
  split at h
  · cases h
    rfl
  · simp only [withdrawClaim] at h
    split at h
    · cases h
      rfl
    · cases h
  · cases h

/-- The RELEASE entries name services of the list, none twice. -/
theorem leaveEntries_services (ns : List Service) (s : State) :
    ((leaveEntries ns s).2.map fun x => x.service).Sublist ns := by
  induction ns generalizing s with
  | nil => exact List.Sublist.refl []
  | cons n ns ih =>
    simp only [leaveEntries, List.map_append]
    cases hx : (leaveEntry n s).2 with
    | none => exact (ih _).cons n
    | some x =>
      simp only [Option.toList_some, List.map_cons, List.map_nil, List.singleton_append, leaveEntry_service hx]
      exact (ih _).cons_cons n

/-- The RELEASE entry of a service of the list is among those of LEAVE. -/
theorem mem_leaveEntries {n : Service} {x : ReleaseEntry} {ns : List Service} {s : State} (hnd : ns.Nodup)
    (hn : n ∈ ns) (hx : (leaveEntry n s).2 = some x) : x ∈ (leaveEntries ns s).2 := by
  induction ns generalizing s with
  | nil => cases hn
  | cons k ns ih =>
    obtain ⟨hk, hnd⟩ := List.nodup_cons.1 hnd
    simp only [leaveEntries, List.mem_append]
    rcases List.mem_cons.1 hn with rfl | hn
    · exact .inl (by rw [hx]; exact List.mem_singleton_self x)
    · have hne : n ≠ k := fun h => hk (h ▸ hn)
      exact .inr (ih hnd hn ((leaveEntry_snd_congr ((leaveEntry_entryStep k s).others n hne).1).trans hx))

theorem TxQueue.HasRelease.addReleases {q : TxQueue} {z : ReleaseEntry} (h : q.HasRelease z) {xs : List ReleaseEntry}
    (hne : ∀ x ∈ xs, z.service ≠ x.service) : (q.addReleases xs).HasRelease z := by
  unfold TxQueue.addReleases
  induction xs generalizing q with
  | nil => exact h
  | cons x xs ih =>
    obtain ⟨hx, hxs⟩ := List.forall_mem_cons.1 hne
    exact ih (h.addRelease hx) hxs

theorem TxQueue.addReleases_has {xs : List ReleaseEntry} (hnd : (xs.map fun x => x.service).Nodup) {z : ReleaseEntry}
    (hz : z ∈ xs) (q : TxQueue) : (q.addReleases xs).HasRelease z := by
  induction xs generalizing q with
  | nil => cases hz
  | cons x xs ih =>
    rw [List.map_cons, List.nodup_cons] at hnd
    obtain ⟨hx, hnd⟩ := hnd
    rcases List.mem_cons.1 hz with rfl | hz
    · exact (TxQueue.addRelease_has q z).addReleases fun y hy he => hx (he ▸ List.mem_map_of_mem hy)
    · exact ih hnd hz (q.addRelease x)

theorem TxQueue.addReleases_claims {q : TxQueue} (h : q.claims = []) (xs : List ReleaseEntry) :
    (q.addReleases xs).claims = [] := by
  unfold TxQueue.addReleases
  induction xs generalizing q with
  | nil => exact h
  | cons x xs ih => exact ih (by simp [TxQueue.addRelease, withoutClaim, h])

/-! ## The Transmitter at LEAVE (R144, case 2) -/

/-- The Transmit Queue of LEAVE: the RELEASE entries and the final STATUS in place of the CLAIMs. -/
def TxQueue.leaving (q : TxQueue) (xs : List ReleaseEntry) : TxQueue :=
  (TxQueue.addReleases { q with claims := [] } xs).addStatus

theorem TxQueue.leaving_claims (q : TxQueue) (xs : List ReleaseEntry) : (q.leaving xs).claims = [] :=
  TxQueue.addReleases_claims (q := { q with claims := [] }) rfl xs

theorem leaveTransmitter_takes (xs : List ReleaseEntry) (s : State) :
    ∃ st fl, leaveTransmitter xs s =
      takeNext (s.withTx { s.tx with state := st, flight := fl, queue := s.tx.queue.leaving xs }) := by
  simp only [leaveTransmitter]
  split
  · next f _ =>
    by_cases hd : f.frame = .status ∧ f.attempts = 0
    · exact ⟨.ready, none, by rw [if_pos hd]; rfl⟩
    · exact ⟨s.tx.state, s.tx.flight, by rw [if_neg hd]; rfl⟩
  · exact ⟨s.tx.state, s.tx.flight, rfl⟩

theorem takeHead_claims_nil {q q' : TxQueue} {f : TxFrame} (h : q.takeHead = some (f, q')) (hc : q.claims = []) :
    q'.claims = [] := by
  obtain ⟨us, cs, st⟩ := q
  obtain rfl : cs = [] := hc
  cases us with
  | cons u rest => cases u <;> cases h <;> rfl
  | nil =>
    cases st with
    | true => cases h; rfl
    | false => cases h

/-- No CLAIM is queued after LEAVE, the final STATUS waits, and so does each RELEASE entry (R111, R144). -/
theorem leaveTransmitter_waits {xs : List ReleaseEntry} (hnd : (xs.map fun x => x.service).Nodup) (s : State) :
    (leaveTransmitter xs s).tx.queue.claims = [] ∧ (leaveTransmitter xs s).StatusWaits ∧
      ∀ x ∈ xs, (leaveTransmitter xs s).ReleaseWaits x := by
  obtain ⟨st, fl, h⟩ := leaveTransmitter_takes xs s
  rw [h]
  generalize hu : s.withTx { s.tx with state := st, flight := fl, queue := s.tx.queue.leaving xs } = u
  have hq : u.tx.queue = s.tx.queue.leaving xs := by rw [← hu]; rfl
  refine ⟨?_, takeNext_statusWaits (by rw [hq]; rfl), fun x hx => (takeNext_releaseStands (.inl ?_)).waits⟩
  · have hclaims : u.tx.queue.claims = [] := by rw [hq]; exact TxQueue.leaving_claims ..
    rcases takeNext_cases u with ht | ⟨f, q, ht, hn⟩
    · rw [ht]
      exact hclaims
    · rw [hn]
      exact takeHead_claims_nil ht hclaims
  · rw [hq]
    exact TxQueue.addReleases_has hnd hx { s.tx.queue with claims := [] }

theorem leaveTable_nodup (s : State) : ((leaveTable s).2.map fun x => x.service).Nodup :=
  (leaveEntries_services ..).nodup allSixteen_nodup

theorem mem_leaveTable {n : Service} {x : ReleaseEntry} {s : State}
    (hx : (leaveEntry n (stopTimers (setPhase .leaving s))).2 = some x) : x ∈ (leaveTable s).2 :=
  mem_leaveEntries allSixteen_nodup (mem_allSixteen n) hx

/-- The answer to a command that was carried out, with the address moved past the end (R147, R150). -/
def answeredDone (s : State) : State := s.withHost { s.host with result := .done, txn := .data .write .pastEnd }

theorem moveAddress_done {s : State} (h : s.host.txn = .data .write (.at 0x0D)) :
    moveAddress (.at addrCode) (setResult .done s) = answeredDone s :=
  moveAddress_code (s := setResult .done s) h

/-- LEAVE keeps the Host Port but for its events (R111). -/
theorem leaveStation_host (s : State) :
    (leaveStation s).host =
      { s.host with
        events := (leaveStation s).host.events, lost := (leaveStation s).host.lost
        irq := (leaveStation s).host.irq } := by
  have h := standDown_blocks (k := .phaseChanged) (d := .phase .leaving)
    (x := (leaveTransmitter (leaveTable s).2 (leaveTable s).1).tx) (by decide) (leaveTable_step s)
  rw [← leaveStation_eq] at h
  exact h.2.2.2.2.2.2.2

theorem commandLeave_accepted {s : State} (h : s.station.phase = .listen ∨ s.station.phase = .active) :
    commandLeave s = setResult .done (leaveStation s) := by
  unfold commandLeave
  rw [if_pos h]

theorem exec_leave {s : State} (htxn : s.host.txn = .data .write (.at 0x0D))
    (h : s.station.phase = .listen ∨ s.station.phase = .active) :
    exec .leave s = .next (answeredDone (leaveStation (storeCode 2 s))) := by
  have htake : takeCommand .leave s = moveAddress (.at addrCode) (commandLeave (storeCode 2 s)) := by
    unfold takeCommand dataByte
    rw [htxn]
    rfl
  have hmove : (leaveStation (storeCode 2 s)).host.txn = .data .write (.at 0x0D) := by
    rw [leaveStation_host]
    exact htxn
  rw [commandLeave_accepted (s := storeCode 2 s) h, moveAddress_done hmove] at htake
  exact congrArg Host.Outcome.next htake

/-- What LEAVE leaves of the blocks, with the table and the RELEASE entries of `leaveTable` (R111, R144). -/
structure State.Left (s t : State) : Prop where
  station : t.station = { s.station with phase := .leaving, listenTimer := none, statusTimer := none }
  peers : t.peers = { s.peers with isolated := false }
  timebase : t.timebase = s.timebase
  cond : t.cond = s.cond
  rx : t.rx = s.rx
  pending : t.pending = s.pending
  rstLow : t.rstLow = s.rstLow
  oc : t.oc = (leaveTable s).1.oc
  claims : t.tx.queue.claims = []
  status : t.StatusWaits
  releases : ∀ x ∈ (leaveTable s).2, t.ReleaseWaits x

theorem leaveStation_left (s : State) : s.Left (leaveStation s) := by
  obtain ⟨hstation, hpeers, htime, hcond, hrx, hpending, hrst, -⟩ :=
    standDown_blocks (k := .phaseChanged) (d := .phase .leaving)
      (x := (leaveTransmitter (leaveTable s).2 (leaveTable s).1).tx) (by decide) (leaveTable_step s)
  obtain ⟨hclaims, hstatus, hrelease⟩ := leaveTransmitter_waits (leaveTable_nodup s) (leaveTable s).1
  rw [leaveStation_eq]
  refine ⟨hstation, hpeers, htime, hcond, hrx, hpending, hrst, standDown_oc, ?_, ?_, fun x hx => ?_⟩
  · rw [standDown_tx]
    exact hclaims
  · unfold State.StatusWaits
    rw [standDown_tx]
    exact hstatus
  · unfold State.ReleaseWaits
    rw [standDown_tx]
    exact hrelease x hx

theorem leaveStation_last {s : State} (h : s.CanRecord 18) :
    (leaveStation s).host.events.getLast? =
      some (s.event .phaseChanged none none none (some (.phase .leaving))) := by
  rw [leaveStation_eq]
  exact standDown_last (s := s) (leaveTable_step s).timebase (leaveTable_canRecord h)

/-- Each entry after LEAVE with its RELEASE entry, by the state it stood in (R35, R36, R111). -/
theorem State.Left.entry {s t : State} {n : Service} (h : s.Left t) (ha : s.EntryAgrees n) :
    look t.oc.drv n = false ∧ (t.entry n).epoch = (s.entry n).epoch ∧
      ((s.entry n).state = .held →
        t.entry n = { s.entry n with state := .vacant, owner := none, wtr := none, changed := s.timebase } ∧
          t.ReleaseWaits { service := n, epoch := (s.entry n).heldEpoch, reason := .leave }) ∧
      (∀ r, (s.entry n).state = .claiming → (s.entry n).record = some r →
        s.SettledAs (t.entry n) ∧ (t.entry n).owner = (s.entry n).owner ∧ (t.entry n).wtr = none ∧
          (t.entry n).retryHold = some 100 ∧
          (r.sent = some .sent → t.ReleaseWaits { service := n, epoch := r.epoch, reason := .withdraw })) ∧
      ((s.entry n).state ≠ .held → (s.entry n).state ≠ .claiming → t.entry n = { s.entry n with wtr := none }) := by
  obtain ⟨hdrv, hheld, hclaiming, hother⟩ := leaveTable_entry ha
  have hepoch := leaveTable_epoch ha
  rw [entry_of_oc h.oc n, h.oc]
  refine ⟨hdrv, hepoch, fun hs => ⟨hheld hs, h.releases _ (mem_leaveTable (n := n) ?_)⟩, fun r hs hr => ?_, hother⟩
  · rw [leaveEntry_of_held (s := stopTimers (setPhase .leaving s)) hs]
    rfl
  · rw [hclaiming hs]
    refine ⟨(settledAs_settled s (s.entry n)).of_fields rfl rfl rfl, rfl, rfl, rfl, fun hsent => ?_⟩
    refine h.releases _ (mem_leaveTable (n := n) ?_)
    rw [leaveEntry_of_claiming (s := stopTimers (setPhase .leaving s)) hs hr]
    exact if_pos hsent

/-- Settles O48: the table lets go entry by entry, each with its RELEASE entry, and the queue is made anew. -/
theorem leaveReleasesEverything : Obligations.LeaveReleasesEverything := by
  intro s htxn hphase hagree
  have hexec := exec_leave htxn hphase
  have hleft := leaveStation_left (storeCode 2 s)
  have hcode : (leaveStation (storeCode 2 s)).host.code = 2 := by
    rw [leaveStation_host]
    rfl
  have hlast := fun hrec : (storeCode 2 s).CanRecord 18 => leaveStation_last hrec
  generalize leaveStation (storeCode 2 s) = u at hexec hleft hcode hlast
  exact ⟨answeredDone u, hexec, hleft.station, rfl, hcode, rfl, hleft.status, hleft.claims, hleft.peers, hleft.timebase,
    hleft.cond, hleft.rx, hleft.pending, hleft.rstLow, fun n => hleft.entry (hagree n), hlast⟩

end Sys2Proof.Machine

/-! The holder's answer to a CLAIM (R44 to R47, R73, Table 3-2): an OBJECT entry, or the handover. -/

namespace Sys2Proof.Machine

/-! ## What a CLAIM meets at a holder (R23) -/

theorem receiveClaim_of_no_candidate {p : StationId} {c : ClaimBody} {s : State}
    (h : (s.planOf c.service).defined = false ∨ c.claimed.grade = .unav ∨ c.claimed.rank = 0) :
    receiveClaim p c s = s := by
  simp only [receiveClaim]
  by_cases hd : (s.planOf c.service).defined = false
  · rw [if_pos hd]
  · rw [if_neg hd, if_pos (h.resolve_left hd)]

/-- A VACANT claim, or one with another target, is objected to; one that targets this station is judged (R23, R44). -/
theorem receiveClaim_of_held {p : StationId} {c : ClaimBody} {s : State} (hs : (s.entry c.service).state = .held)
    (hd : (s.planOf c.service).defined = true) (hg : c.claimed.grade ≠ .unav) (hr : c.claimed.rank ≠ 0) :
    (c.mode ≠ .takeover s.station.ownId → receiveClaim p c s = requestObject (s.objection p c .ownerLive) s) ∧
      (c.mode = .takeover s.station.ownId → receiveClaim p c s = judgeTakeover p c s) := by
  simp only [receiveClaim, ClaimMode.targets]
  rw [if_neg (by simp [hd]), if_neg (by tauto), if_pos hs]
  exact ⟨fun hm => if_neg (by simpa using hm), fun hm => if_pos (by simpa using hm)⟩

/-- The objection of a holder at epoch `h` (R44, R47, R73). -/
theorem objection_eq {p : StationId} {c : ClaimBody} {s : State} {h : Epoch}
    (he : (s.entry c.service).epoch = some h) (cause : ObjectCause) :
    s.objection p c cause =
      { service := c.service, claimant := p, claimEpoch := c.epoch, holderEpoch := h, cause := cause } := by
  simp only [State.objection, ServiceEntry.heldEpoch, he, Option.getD_some]

/-- A holder that objects keeps its table, posts nothing, and the OBJECT entry waits (R47). -/
theorem requestObject_answers {s : State} (hp : s.station.phase.sends = true) (x : ObjectEntry) :
    (requestObject x s).oc = s.oc ∧ (requestObject x s).host = s.host ∧ (requestObject x s).ObjectWaits x :=
  ⟨request_oc .., request_host .., requestObject_objectWaits hp x⟩

/-! ## Table 3-2 (R45) -/

section
variable {p : StationId} {c : ClaimBody} {s : State}

theorem refusal_of_not_live (h : s.isLive p = false) : s.refusal p c = some .notBetter := by
  simp only [State.refusal]
  exact if_pos h

variable (hl : s.isLive p = true)
include hl

theorem refusal_agrees
    (h : (c.claimed.cls = .force ∧ (s.condition c.service).cls = .normal) ∨
      (c.claimed.cls = .force ∧ (s.condition c.service).cls = .force ∧
        c.claimed.grade.better (s.condition c.service).grade = true) ∨
      (c.claimed.cls = .normal ∧ (s.condition c.service).cls = .normal ∧
        (c.claimed.grade.better (s.condition c.service).grade = true ∨
          ((s.planOf c.service).revertive = true ∧ c.claimed.grade = (s.condition c.service).grade ∧
            c.claimed.grade ≠ .fail ∧ c.claimed.rank < (s.planOf c.service).rank)))) :
    s.refusal p c = none := by
  rcases h with ⟨hc, ho⟩ | ⟨hc, ho, hg⟩ | ⟨hc, ho, hg⟩
  · simp only [State.refusal, State.ownByte, hl, hc, ho, Bool.true_eq_false, if_false]
  · simp only [State.refusal, State.ownByte, hl, hc, ho, Bool.true_eq_false, if_false]
    exact if_pos hg
  · simp only [State.refusal, State.ownByte, hl, hc, ho, Bool.true_eq_false, if_false]
    exact if_pos (hg.imp id fun ⟨hv, he, hf, hr⟩ => ⟨hv, he, he ▸ hf, hr⟩)

theorem refusal_forceHeld
    (h : (c.claimed.cls = .normal ∧ (s.condition c.service).cls = .force) ∨
      (c.claimed.cls = .force ∧ (s.condition c.service).cls = .force ∧
        c.claimed.grade.better (s.condition c.service).grade = false)) :
    s.refusal p c = some .forceHeld := by
  rcases h with ⟨hc, ho⟩ | ⟨hc, ho, hg⟩
  · simp only [State.refusal, State.ownByte, hl, hc, ho, Bool.true_eq_false, if_false]
  · simp only [State.refusal, State.ownByte, hl, hc, ho, Bool.true_eq_false, if_false]
    exact if_neg (by simp [hg])

theorem refusal_notBetter
    (h : c.claimed.cls = .normal ∧ (s.condition c.service).cls = .normal ∧
      c.claimed.grade.better (s.condition c.service).grade = false ∧
      ((s.planOf c.service).revertive = false ∨ c.claimed.grade ≠ (s.condition c.service).grade ∨
        c.claimed.grade = .fail ∨ (s.planOf c.service).rank ≤ c.claimed.rank)) :
    s.refusal p c = some .notBetter := by
  obtain ⟨hc, ho, hg, hn⟩ := h
  simp only [State.refusal, State.ownByte, hl, hc, ho, Bool.true_eq_false, if_false]
  refine if_neg ?_
  rintro (hb | ⟨hv, he, hf, hr⟩)
  · rw [hg] at hb
    cases hb
  · rcases hn with hn | hn | hn | hn
    · rw [hn] at hv
      cases hv
    · exact hn he
    · exact hf (he ▸ hn)
    · exact absurd hr (not_lt.2 hn)

end

section
variable {p : StationId} {c : ClaimBody} {s : State} {h : Epoch} (he : (s.entry c.service).epoch = some h)
include he

theorem judgeTakeover_stale (hc : c.epoch ≠ h + 1) :
    judgeTakeover p c s = requestObject (s.objection p c .staleEpoch) s := by
  unfold judgeTakeover
  rw [he]
  exact if_pos hc

theorem judgeTakeover_refused (hc : c.epoch = h + 1) {cause : ObjectCause} (hr : s.refusal p c = some cause) :
    judgeTakeover p c s = requestObject (s.objection p c cause) s := by
  unfold judgeTakeover
  rw [he, if_neg (not_not_intro (show c.epoch = nextEpoch (some h) from hc)), hr]

theorem judgeTakeover_agreed (hc : c.epoch = h + 1) (hr : s.refusal p c = none) :
    judgeTakeover p c s = handOver p c s := by
  unfold judgeTakeover
  rw [he, if_neg (not_not_intro (show c.epoch = nextEpoch (some h) from hc)), hr]

end

/-! ## The handover (R46) -/

/-- The service handed over to peer `p`, before the RELEASE is queued (R43, R46). -/
def handed (p : StationId) (c : ClaimBody) (s : State) : State :=
  leaveHeld c.service (some p) (some c.epoch) (s.settledState (some p)) (some Config.retryHold) .handover s

/-- The service handed over with its RELEASE queued, before the evaluation (R46). -/
def handedReleased (p : StationId) (c : ClaimBody) (s : State) : State :=
  requestRelease c.service (s.entry c.service).heldEpoch .handover (handed p c s)

section
variable {p : StationId} {c : ClaimBody} {s : State}

theorem handOver_eq : handOver p c s = evaluate c.service (handedReleased p c s) := rfl

/-- A LIVE claimant becomes the owner, and the retry hold runs (R7, R46). -/
theorem handedReleased_entry (hs : (s.entry c.service).state = .held) (hl : s.isLive p = true) :
    (handedReleased p c s).entry c.service =
      { s.entry c.service with
        state := .remote, owner := some p, epoch := some c.epoch, retryHold := some 100, changed := s.timebase } := by
  have hst : s.settledState (some p) = .remote := if_pos hl
  rw [handedReleased, requestRelease, request_entry, handed, leaveHeld, post_entry, putEntry_entry_same, hst,
    stamp_of_changed (.inl (by simp [hs]))]
  rfl

theorem handedReleased_drv : look (handedReleased p c s).oc.drv c.service = false := by
  rw [handedReleased, requestRelease, request_oc, handed, leaveHeld, post_oc, putEntry_drv_same]
  exact decide_eq_false (settledState_ne_held s (some p))

/-- The evaluation after a handover claims nothing back, since the retry hold runs (R15, R46). -/
theorem handOver_heldBack (hs : (s.entry c.service).state = .held) (hl : s.isLive p = true) :
    (handedReleased p c s).HeldBack c.service (handOver p c s) := by
  have he := handedReleased_entry (p := p) hs hl
  exact evaluate_heldBack (by rw [he]; simp) (by rw [he]; simp) handedReleased_drv

theorem handOver_releaseWaits (hp : s.station.phase.sends = true) (hs : (s.entry c.service).state = .held)
    (hl : s.isLive p = true) :
    (handOver p c s).ReleaseWaits
      { service := c.service, epoch := (s.entry c.service).heldEpoch, reason := .handover } :=
  ((request_releaseStands (s := handed p c s) hp _).of_tx (handOver_heldBack hs hl).tx).waits

theorem handOver_events (h : s.CanRecord 1) :
    (handOver p c s).host.events =
      s.host.events ++ [s.event .svcDropped (some c.service) (some p) (some c.epoch) (some (.dropped .handover))] := by
  rw [handOver_eq, evaluate_host, handedReleased, requestRelease, request_host]
  exact State.CanRecord.post_events (s := putEntry ..) (k := 0) _ _ _ _ _ (h.of_host rfl)

end

/-- Settles O41: a claim of no candidate is ignored; mode, epoch and Table 3-2 decide between an objection and the
handover. -/
theorem holderJudgesTakeover : Obligations.HolderJudgesTakeover := by
  intro p c s h ha hs he
  have hp : s.station.phase.sends = true := by rw [ha]; rfl
  have hstep := receiveClaim_entryStep p c s
  have hanswer := fun cause => requestObject_answers hp (s.objection p c cause)
  simp only [objection_eq he] at hanswer
  refine ⟨receiveClaim_of_no_candidate, fun hd hg hr hm => ?_, fun hd hg hr hm => ?_⟩
  · obtain ⟨hoc, hhost, hwaits⟩ := hanswer .ownerLive
    have hobj := (receiveClaim_of_held (p := p) hs hd hg hr).1 hm
    rw [objection_eq he] at hobj
    rw [← hobj] at hoc hhost hwaits
    exact ⟨hoc, hhost, hstep.owner.onlyOwnership, hwaits⟩
  · have hjudge := (receiveClaim_of_held (p := p) hs hd hg hr).2 hm
    have hrefused : c.epoch = h + 1 → ∀ cause, s.refusal p c = some cause →
        (receiveClaim p c s).oc = s.oc ∧ (receiveClaim p c s).host = s.host ∧
          (receiveClaim p c s).ObjectWaits
            { service := c.service, claimant := p, claimEpoch := c.epoch, holderEpoch := h, cause := cause } := by
      intro hc cause hcause
      rw [hjudge, judgeTakeover_refused he hc hcause, objection_eq he]
      exact hanswer cause
    refine ⟨hstep.others, hstep.owner.onlyOwnership, fun hc => ?stale, fun hc => ⟨fun hl => ?notLive, fun hl =>
      ⟨fun hagrees => ?agreed, fun hforce => ?forceHeld, fun hbetter => ?notBetter⟩⟩⟩
    case stale =>
      rw [hjudge, judgeTakeover_stale he hc, objection_eq he]
      exact hanswer .staleEpoch
    case notLive => exact hrefused hc _ (refusal_of_not_live hl)
    case forceHeld => exact hrefused hc _ (refusal_forceHeld hl hforce)
    case notBetter => exact hrefused hc _ (refusal_notBetter hl hbetter)
    case agreed =>
      have hover := hjudge.trans (judgeTakeover_agreed he hc (refusal_agrees hl hagrees))
      have hback := handOver_heldBack (c := c) hs hl
      have hreleased := handOver_releaseWaits (c := c) hp hs hl
      rw [show (s.entry c.service).heldEpoch = h by rw [ServiceEntry.heldEpoch, he]; rfl] at hreleased
      rw [hover, hback.entry, handedReleased_entry hs hl]
      exact ⟨rfl, rfl, rfl, rfl, rfl, hback.drv, hreleased, handOver_events⟩

end Sys2Proof.Machine

/-! A report of the Condition Monitor (R79, R80) to an own claim, which it withdraws or leaves as it is (R35, R36), with the
two commands that bring one: a condition timer that runs out (R77) and an operator request (R81 to R84). -/

namespace Sys2Proof.Machine

/-! ## A change of a condition (R79, R80) -/

/-- The state with the new content for service `n`, grade and class formed anew (R79). -/
def formedState (n : Service) (c : ServiceCondition) (s : State) : State := putCondition n (c.formed (s.planOf n)) s

/-- The state with a change of grade posted, as the Ownership Controller is told of it (R80). -/
def gradePosted (n : Service) (c : ServiceCondition) (s : State) : State :=
  postGrade n (s.condition n).grade (formedState n c s)

/-- The whole action of a change: its report, and the head that a READY Transmitter takes (R80, R135). -/
def changeCondition (n : Service) (c : ServiceCondition) (s : State) : State := takeNext (updateCondition n c s)

/-- The grade and class formed anew are those that stood. -/
def ServiceCondition.SameReport (c : ServiceCondition) (p : PlanRecord) (old : ServiceCondition) : Prop :=
  (c.formed p).grade = old.grade ∧ (c.formed p).cls = old.cls

section
variable {n : Service} {c : ServiceCondition} {s : State}

theorem updateCondition_same (h : c.SameReport (s.planOf n) (s.condition n)) :
    updateCondition n c s = formedState n c s := by
  simp only [updateCondition, reform_putCondition, putCondition_condition_same]
  exact if_pos h

theorem updateCondition_changed (h : ¬c.SameReport (s.planOf n) (s.condition n)) :
    updateCondition n c s = takeReport n (s.condition n) (gradePosted n c s) := by
  simp only [updateCondition, reform_putCondition, putCondition_condition_same]
  exact if_neg h

theorem takeNext_of_drained (h : s.tx.state = .ready → s.tx.queue = emptyQueue) : takeNext s = s := by
  by_cases hr : s.tx.state = .ready
  · exact takeNext_of_empty (h hr)
  · exact takeNext_of_busy hr

/-- A change of neither grade nor class is not reported (R80). -/
theorem changeCondition_same (h : c.SameReport (s.planOf n) (s.condition n))
    (hd : s.tx.state = .ready → s.tx.queue = emptyQueue) : changeCondition n c s = formedState n c s := by
  rw [changeCondition, updateCondition_same h]
  exact takeNext_of_drained (s := formedState n c s) hd

theorem takeNext_entryStep (n : Service) (s : State) : EntryStep n s (takeNext s) :=
  .elsewhere (takeNext_step s) (takeNext_oc s) n

/-- The early STATUS, taken at once where the Transmitter is READY. -/
theorem takeNext_reportStatus_entryStep (n : Service) (s : State) : EntryStep n s (takeNext (reportStatus s)) := by
  unfold reportStatus
  split
  · exact requestStatus_entryStep n s
  · exact takeNext_entryStep n s

theorem takeReport_entryStep (n : Service) (old : ServiceCondition) (s : State) :
    EntryStep n s (takeNext (takeReport n old s)) :=
  (report_entryStep n old s).trans (takeNext_reportStatus_entryStep n _)

theorem postGrade_entryStep (n : Service) (g : Grade) (s : State) : EntryStep n s (postGrade n g s) :=
  .elsewhere (postGrade_step n g s) (postGrade_oc n g s) n

/-- Past the condition itself a change acts as the Ownership Controller does on entry `n` (R80). -/
theorem changeCondition_entryStep (n : Service) (c : ServiceCondition) (s : State) :
    EntryStep n (formedState n c s) (changeCondition n c s) := by
  by_cases h : c.SameReport (s.planOf n) (s.condition n)
  · rw [changeCondition, updateCondition_same h]
    exact takeNext_entryStep n _
  · rw [changeCondition, updateCondition_changed h]
    exact (postGrade_entryStep ..).trans (takeReport_entryStep ..)

theorem changeCondition_condition (n : Service) (c : ServiceCondition) (s : State) :
    (changeCondition n c s).condition n = c.formed (s.planOf n) :=
  ((changeCondition_entryStep n c s).owner.condition n).trans (putCondition_condition_same ..)

theorem changeCondition_condition_ne {m : Service} (hm : m ≠ n) :
    (changeCondition n c s).condition m = s.condition m :=
  ((changeCondition_entryStep n c s).owner.condition m).trans (putCondition_condition_ne _ _ hm)

end

/-! ## The events of a report (R80) -/

theorem withdrawOwn_events_grow (n : Service) (s : State) : s.host.events <+: (withdrawOwn n s).host.events := by
  unfold withdrawOwn
  split
  · next r _ _ =>
    have hfail : s.host.events <+: (failOwnClaim n r .withdrawn none s).host.events := by
      rw [failOwnClaim_host]
      exact post_events_grow ..
    simp only [withdrawClaim, evaluate_host]
    split
    · rw [request_host]
      exact hfail
    · exact hfail
  · exact List.prefix_rfl

theorem releaseOnLockout_events_grow (n : Service) (s : State) :
    s.host.events <+: (releaseOnLockout n s).host.events := by
  simp only [releaseOnLockout, evaluate_host, requestRelease, request_host]
  exact post_events_grow (s := putEntry ..) ..

theorem reportStatus_host (s : State) : (reportStatus s).host = s.host := by
  unfold reportStatus
  split
  · exact enqueue_host ..
  · rfl

theorem takeReport_events_grow (n : Service) (old : ServiceCondition) (s : State) :
    s.host.events <+: (takeNext (takeReport n old s)).host.events := by
  have hwithdraw : s.host.events <+: (withdrawIfDue n old (evaluate n s)).host.events := by
    unfold withdrawIfDue
    split
    · have h := withdrawOwn_events_grow n (evaluate n s)
      rwa [evaluate_host] at h
    · rw [evaluate_host]
  rw [takeNext_host, takeReport, reportStatus_host]
  refine hwithdraw.trans ?_
  unfold releaseIfLocked
  split
  · exact releaseOnLockout_events_grow ..
  · exact List.prefix_rfl

section
variable {n : Service} {c : ServiceCondition} {s : State}

theorem gradePosted_of_changed (h : (c.formed (s.planOf n)).grade ≠ (s.condition n).grade) :
    gradePosted n c s =
      post .gradeChanged (some n) none none (some (.grade (c.formed (s.planOf n)).grade)) (formedState n c s) := by
  simp only [gradePosted, postGrade, formedState, putCondition_condition_same]
  exact if_pos h

theorem gradePosted_of_same (h : (c.formed (s.planOf n)).grade = (s.condition n).grade) :
    gradePosted n c s = formedState n c s := by
  simp only [gradePosted, postGrade, formedState, putCondition_condition_same]
  exact if_neg (not_not_intro h)

/-- GRADE_CHANGED is the first event of the action (R80). -/
theorem changeCondition_gradeFirst (h : (c.formed (s.planOf n)).grade ≠ (s.condition n).grade) (hrec : s.CanRecord 1) :
    s.host.events ++ [s.event .gradeChanged (some n) none none (some (.grade (c.formed (s.planOf n)).grade))] <+:
      (changeCondition n c s).host.events := by
  have hpost := State.CanRecord.post_events (s := formedState n c s) (k := 0) .gradeChanged (some n) none none
    (some (.grade (c.formed (s.planOf n)).grade)) hrec
  have hgrow := takeReport_events_grow n (s.condition n) (gradePosted n c s)
  rw [gradePosted_of_changed h, hpost] at hgrow
  rw [changeCondition, updateCondition_changed fun hs => h hs.1, gradePosted_of_changed h]
  exact hgrow

/-- The early STATUS of a report waits (R80). -/
theorem takeReport_statusWaits {old : ServiceCondition} (hp : s.station.phase = .listen ∨ s.station.phase = .active) :
    (takeNext (takeReport n old s)).StatusWaits := by
  have hstation := (report_entryStep n old s).owner.station
  have hsends : s.station.phase.sends = true := by
    rcases hp with h | h <;> rw [h] <;> rfl
  unfold takeReport reportStatus
  rw [hstation, if_pos hp, enqueue_of_sends (by rw [hstation]; exact hsends)]
  exact takeNext_statusWaits rfl

theorem changeCondition_statusWaits (h : ¬c.SameReport (s.planOf n) (s.condition n))
    (hp : s.station.phase = .listen ∨ s.station.phase = .active) : (changeCondition n c s).StatusWaits := by
  rw [changeCondition, updateCondition_changed h]
  refine takeReport_statusWaits ?_
  rw [gradePosted, (postGrade_step ..).station]
  exact hp

end

/-! ## An own claim under a report (R35, R36) -/

section
variable {n : Service} {r : ClaimRecord} {old : ServiceCondition} {u : State}

theorem evaluate_of_claiming (hs : (u.entry n).state = .claiming) : evaluate n u = u := by
  simp only [evaluate, hs, ite_self]

/-- The cases of R35 for the record of an entry. -/
theorem withdrawalDue_iff (hr : (u.entry n).record = some r) : u.withdrawalDue n old = true ↔
    ((u.condition n).grade = .fail ∧ old.grade ≠ .fail ∧ r.claimed.cls = .normal) ∨
      ((u.condition n).request = .lockout ∧ old.request ≠ .lockout) ∨
      ((u.condition n).cls = .normal ∧ old.cls = .force ∧ (u.condition n).grade = .fail) := by
  simp only [State.withdrawalDue, hr, decide_eq_true_eq]

theorem releaseIfLocked_of_not_held (hs : (u.entry n).state ≠ .held) : releaseIfLocked n u = u := by
  unfold releaseIfLocked
  exact if_neg fun h => hs h.2

/-- A report that R35 does not name leaves an own claim as it is. -/
theorem takeReport_keeps_claim (hs : (u.entry n).state = .claiming) (hdue : u.withdrawalDue n old = false) :
    (takeNext (takeReport n old u)).entry n = u.entry n := by
  have hkeep : takeReport n old u = reportStatus u := by
    rw [takeReport, evaluate_of_claiming hs, withdrawIfDue, if_neg (by simp [hdue]),
      releaseIfLocked_of_not_held (by simp [hs])]
  have hoc : (takeNext (reportStatus u)).oc = u.oc := by
    rw [takeNext_oc, reportStatus]
    split
    · exact enqueue_oc ..
    · rfl
  rw [hkeep]
  exact entry_of_oc hoc n

/-- The own claim failed as withdrawn, and its RELEASE asked for when it was SENT, before the evaluation (R35, R36). -/
def withdrawn (n : Service) (r : ClaimRecord) (u : State) : State :=
  if r.sent = some .sent then
    request (fun q => q.addRelease { service := n, epoch := r.epoch, reason := .withdraw })
      (failOwnClaim n r .withdrawn none u)
  else failOwnClaim n r .withdrawn none u

theorem withdrawOwn_eq (hs : (u.entry n).state = .claiming) (hr : (u.entry n).record = some r) :
    withdrawOwn n u = evaluate n (withdrawn n r u) := by
  simp only [withdrawOwn, hs, hr, withdrawClaim, withdrawn]
  by_cases hsent : r.sent = some .sent
  · simp only [if_pos hsent]
  · simp only [if_neg hsent]

theorem withdrawn_oc : (withdrawn n r u).oc = (failOwnClaim n r .withdrawn none u).oc := by
  unfold withdrawn
  split
  · exact request_oc ..
  · rfl

theorem withdrawn_host : (withdrawn n r u).host = (failOwnClaim n r .withdrawn none u).host := by
  unfold withdrawn
  split
  · exact request_host ..
  · rfl

theorem withdrawn_step : OwnerStep u (withdrawn n r u) := by
  unfold withdrawn
  split
  · exact (failOwnClaim_step ..).trans (request_step (fun _ h => h.addRelease _) _)
  · exact failOwnClaim_step ..

/-- A station that is FAIL or UNAV for the service claims nothing and waits for nothing: while a retry hold runs its
evaluation removes the WTR timer (R15, R17). -/
theorem evaluate_unfit (ha : u.station.phase = .active)
    (hs : (u.entry n).state = .vacant ∨ (u.entry n).state = .remote ∨ (u.entry n).state = .orphaned)
    (hr : (u.entry n).retryHold ≠ none)
    (hg : (u.condition n).grade = .fail ∨ (u.condition n).grade = .unav) : evaluate n u = removeWtr n u := by
  have hfree : evaluateFree n u = removeWtr n u := by
    simp only [evaluateFree]
    exact if_neg fun h => hr h.2.1
  have hrevert : ∀ b, u.revertiveTest n b = false := by
    intro b
    rcases hg with hg | hg <;> simp [State.revertiveTest, State.ownBest, State.ownCandidate, State.ownByte, hg]
  have hremote : ∀ p b, evaluateRemote n p b u = removeWtr n u := by
    intro p b
    simp only [evaluateRemote]
    rw [if_neg fun h => hr h.2.2, if_neg (by simp [hrevert])]
  simp only [evaluate]
  rw [if_neg (not_not_intro ha)]
  rcases hs with hs | hs | hs <;> simp only [hs]
  · exact hfree
  · split
    · split
      · exact hremote ..
      · rfl
    · rfl
  · exact hfree

theorem withdrawn_entry (hs : (u.entry n).state = .claiming) :
    (withdrawn n r u).entry n =
      { u.settled (u.entry n) with retryHold := some 100, changed := u.timebase } :=
  (entry_of_oc withdrawn_oc n).trans (failOwnClaim_entry_of_claiming n r .withdrawn none u hs)

/-- The withdrawal of an own claim for a station that is FAIL or UNAV. -/
theorem withdrawOwn_of_unfit (ha : u.station.phase = .active) (hs : (u.entry n).state = .claiming)
    (hr : (u.entry n).record = some r) (hg : (u.condition n).grade = .fail ∨ (u.condition n).grade = .unav) :
    withdrawOwn n u = removeWtr n (withdrawn n r u) := by
  have he := withdrawn_entry (r := r) hs
  rw [withdrawOwn_eq hs hr]
  refine evaluate_unfit (by rw [withdrawn_step.station]; exact ha) ?_ (by rw [he]; simp)
    (by rw [withdrawn_step.condition]; exact hg)
  rw [he]
  exact settledState_free u (u.entry n).owner

/-- What a withdrawn claim's statement reads of the state before and after. -/
theorem State.Withdrawn.congr {s t v : State} (hoc : u.oc = s.oc) (htx : u.tx = s.tx) (htime : u.timebase = s.timebase)
    (hpeers : u.peers = s.peers) (hvoc : v.oc = t.oc) (hvtx : v.tx = t.tx) (h : u.Withdrawn t n r) :
    s.Withdrawn v n r := by
  have hu := entry_of_oc hoc n
  have hv := entry_of_oc hvoc n
  have hlive : u.isLive = s.isLive := funext (isLive_of_peers (by rw [hpeers]))
  refine ⟨?_, ?_, ?_, ?_, ?_, ?_, ?_, ?_, ?_, ?_⟩
  · have hsettled := h.settled
    unfold State.SettledAs at hsettled ⊢
    rw [hv, ← hlive]
    exact hsettled
  · rw [hv, ← hu]
    exact h.owner
  · rw [hv, ← hu]
    exact h.epoch
  · rw [hv]
    exact h.wtr
  · rw [hv]
    exact h.retryHold
  · rw [hv, ← htime]
    exact h.changed
  · rw [hvoc]
    exact h.drv
  · exact ((State.OtherEntries.of_oc hoc n).trans h.others).trans (.of_oc hvoc n)
  · unfold State.ReleaseWaits
    rw [hvtx]
    exact h.release
  · rw [hvtx, ← htx]
    exact h.quiet

/-- The state with a STATUS queued and no head taken (R80, R132). -/
def statusQueued (s : State) : State := s.withTx { s.tx with queue := s.tx.queue.addStatus }

theorem reportStatus_active {s : State} (ha : s.station.phase = .active) : reportStatus s = statusQueued s := by
  rw [reportStatus, if_pos (.inr ha)]
  exact enqueue_of_sends (by rw [ha]; rfl) _

/-- A report that R35 names withdraws or abandons the own claim, with CLAIM_FAILED(WITHDRAWN) as its event (R35, R36). -/
theorem takeReport_withdraws (ha : u.station.phase = .active) (hs : (u.entry n).state = .claiming)
    (hr : (u.entry n).record = some r) (hdue : u.withdrawalDue n old = true)
    (hg : (u.condition n).grade = .fail ∨ (u.condition n).grade = .unav) :
    u.Withdrawn (takeNext (takeReport n old u)) n r ∧
      (takeNext (takeReport n old u)).host =
        (post .claimFailed (some n) none (some r.epoch) (some (.claimFailed .withdrawn)) u).host := by
  have he := withdrawn_entry (r := r) hs
  have hwe : (removeWtr n (withdrawn n r u)).entry n =
      { u.settled (u.entry n) with retryHold := some 100, wtr := none, changed := u.timebase } := by
    rw [removeWtr_entry, he]
  have hphase : (removeWtr n (withdrawn n r u)).station.phase = .active :=
    (congrArg StationController.phase withdrawn_step.station).trans ha
  have hreport : takeReport n old u = statusQueued (removeWtr n (withdrawn n r u)) := by
    rw [takeReport, evaluate_of_claiming hs, withdrawIfDue, if_pos hdue, withdrawOwn_of_unfit ha hs hr hg,
      releaseIfLocked_of_not_held (by rw [hwe]; exact settledState_ne_held u (u.entry n).owner),
      reportStatus_active hphase]
  have hoc : (takeNext (takeReport n old u)).oc = (removeWtr n (withdrawn n r u)).oc := by
    rw [takeNext_oc, hreport]
    rfl
  have hentry := entry_of_oc hoc n
  refine ⟨⟨?_, ?_, ?_, ?_, ?_, ?_, ?_, (takeReport_entryStep n old u).others, fun hsent => ?_, fun hq hbusy => ?_⟩, ?_⟩
  · rw [hentry, hwe]
    exact (settledAs_settled u (u.entry n)).of_fields rfl rfl rfl
  · rw [hentry, hwe]
    rfl
  · rw [hentry, hwe]
    rfl
  · rw [hentry, hwe]
  · rw [hentry, hwe]
  · rw [hentry, hwe]
  · rw [hoc]
    exact removeWtr_drv_off (by rw [he]; exact settledState_ne_held u (u.entry n).owner)
  · have hstands : (withdrawn n r u).ReleaseStands { service := n, epoch := r.epoch, reason := .withdraw } := by
      rw [withdrawn, if_pos hsent]
      refine request_releaseStands ?_ _
      rw [(failOwnClaim_step ..).station, ha]
      rfl
    rw [hreport]
    exact (takeNext_releaseStands (s := statusQueued (removeWtr n (withdrawn n r u))) hstands).waits
  · have htx : (withdrawn n r u).tx = u.tx := by
      rw [withdrawn, if_neg hq]
      exact failOwnClaim_tx ..
    have hkept : (removeWtr n (withdrawn n r u)).tx = u.tx := htx
    rw [hreport, takeNext_of_busy (s := statusQueued _) (by rw [statusQueued, withTx_tx, hkept]; exact hbusy),
      statusQueued, withTx_tx, hkept]
  · rw [takeNext_host, hreport]
    exact withdrawn_host.trans (failOwnClaim_host ..)

end

/-! ## A change of a condition that meets an own claim -/

section
variable {n : Service} {c : ServiceCondition} {s : State} {r : ClaimRecord}

theorem gradePosted_step (n : Service) (c : ServiceCondition) (s : State) :
    OwnerStep (formedState n c s) (gradePosted n c s) := postGrade_step ..

theorem gradePosted_oc : (gradePosted n c s).oc = s.oc := postGrade_oc ..

theorem gradePosted_entry : (gradePosted n c s).entry n = s.entry n := entry_of_oc gradePosted_oc n

theorem gradePosted_tx : (gradePosted n c s).tx = s.tx := by
  rcases postGrade_cases n (s.condition n).grade (formedState n c s) with h | h
  · rw [gradePosted, h]
    rfl
  · rw [gradePosted, h]
    rfl

theorem gradePosted_condition : (gradePosted n c s).condition n = c.formed (s.planOf n) :=
  ((gradePosted_step n c s).condition n).trans (putCondition_condition_same ..)

variable (hs : (s.entry n).state = .claiming) (hr : (s.entry n).record = some r)
include hs hr

/-- The own claim stands, unless the change is one that R35 names. -/
theorem changeCondition_keeps_claim
    (h : ¬(((c.formed (s.planOf n)).grade = .fail ∧ (s.condition n).grade ≠ .fail ∧ r.claimed.cls = .normal) ∨
      (c.request = .lockout ∧ (s.condition n).request ≠ .lockout) ∨
      ((c.formed (s.planOf n)).cls = .normal ∧ (s.condition n).cls = .force ∧
        (c.formed (s.planOf n)).grade = .fail))) :
    (changeCondition n c s).entry n = s.entry n := by
  by_cases hsame : c.SameReport (s.planOf n) (s.condition n)
  · rw [changeCondition, updateCondition_same hsame]
    exact entry_of_oc (takeNext_oc _) n
  · have hdue : (gradePosted n c s).withdrawalDue n (s.condition n) = false := by
      rw [← Bool.not_eq_true, withdrawalDue_iff (by rw [gradePosted_entry]; exact hr), gradePosted_condition]
      exact h
    rw [changeCondition, updateCondition_changed hsame,
      takeReport_keeps_claim (by rw [gradePosted_entry]; exact hs) hdue, gradePosted_entry]

/-- A change that R35 names, for a station that is then FAIL or UNAV, ends the own claim (R35, R36, R80). -/
theorem changeCondition_withdraws (ha : s.station.phase = .active)
    (hchanged : ¬c.SameReport (s.planOf n) (s.condition n))
    (h : ((c.formed (s.planOf n)).grade = .fail ∧ (s.condition n).grade ≠ .fail ∧ r.claimed.cls = .normal) ∨
      (c.request = .lockout ∧ (s.condition n).request ≠ .lockout) ∨
      ((c.formed (s.planOf n)).cls = .normal ∧ (s.condition n).cls = .force ∧ (c.formed (s.planOf n)).grade = .fail))
    (hg : (c.formed (s.planOf n)).grade = .fail ∨ (c.formed (s.planOf n)).grade = .unav) :
    s.Withdrawn (changeCondition n c s) n r ∧
      (s.CanRecord 2 →
        (changeCondition n c s).host.events =
          s.host.events ++
            ((if (c.formed (s.planOf n)).grade ≠ (s.condition n).grade then
                [s.event .gradeChanged (some n) none none (some (.grade (c.formed (s.planOf n)).grade))]
              else []) ++
              [s.event .claimFailed (some n) none (some r.epoch) (some (.claimFailed .withdrawn))])) := by
  have hstep := gradePosted_step n c s
  have hdue : (gradePosted n c s).withdrawalDue n (s.condition n) = true := by
    rw [withdrawalDue_iff (by rw [gradePosted_entry]; exact hr), gradePosted_condition]
    exact h
  obtain ⟨hwithdrawn, hhost⟩ := takeReport_withdraws (by rw [hstep.station]; exact ha)
    (by rw [gradePosted_entry]; exact hs) (by rw [gradePosted_entry]; exact hr) hdue
    (by rw [gradePosted_condition]; exact hg)
  rw [← updateCondition_changed hchanged] at hwithdrawn hhost
  refine ⟨hwithdrawn.congr gradePosted_oc gradePosted_tx hstep.timebase hstep.peers rfl rfl, fun hrec => ?_⟩
  have hevent : (gradePosted n c s).event .claimFailed (some n) none (some r.epoch) (some (.claimFailed .withdrawn)) =
      s.event .claimFailed (some n) none (some r.epoch) (some (.claimFailed .withdrawn)) := by
    simp only [State.event, hstep.timebase]
    rfl
  rw [show (changeCondition n c s).host = _ from hhost]
  by_cases hgrade : (c.formed (s.planOf n)).grade = (s.condition n).grade
  · rw [if_neg (not_not_intro hgrade), State.CanRecord.post_events (k := 1), hevent, gradePosted_of_same hgrade]
    · rfl
    · rw [gradePosted_of_same hgrade]
      exact hrec
  · have hposted := gradePosted_of_changed (n := n) (c := c) (s := s) hgrade
    have hroom : (gradePosted n c s).CanRecord 1 := by
      rw [hposted]
      exact State.CanRecord.post (s := formedState n c s) _ _ _ _ _ hrec
    rw [if_pos hgrade, State.CanRecord.post_events (k := 0) _ _ _ _ _ hroom, hevent, hposted,
      State.CanRecord.post_events (s := formedState n c s) (k := 1) _ _ _ _ _ hrec, List.append_assoc]
    rfl

end

/-! ## CONDITION_TIMER_RUNS_OUT (R77) -/

/-- The content that a condition timer's running out brings: the raw condition debounced (R77). -/
def ServiceCondition.settle (c : ServiceCondition) : ServiceCondition := { c with timer := none, debounced := c.raw }

theorem conditionRunsOut_of_zero {n : Service} {s : State} (h : (s.condition n).timer = some 0) :
    conditionRunsOut n s = changeCondition n (s.condition n).settle s := by
  unfold conditionRunsOut
  rw [if_pos h]
  rfl

/-- Settles O15: the running out is a change of the condition that leaves the request as it is, so that of the cases of R35
only a grade that becomes FAIL can be due. -/
theorem conditionTimerRunsOut : Obligations.ConditionTimerRunsOut := by
  intro n s h0
  have hrun := conditionRunsOut_of_zero h0
  generalize hc : (s.condition n).settle = c at hrun
  have hrequest : c.request = (s.condition n).request := by rw [← hc]; rfl
  have hstep := changeCondition_entryStep n c s
  have hcond := changeCondition_condition n c s
  refine ⟨changeCondition n c s, congrArg Host.Outcome.next hrun, ?_, fun m hm => changeCondition_condition_ne hm,
    hstep.owner.timebase, hstep.owner.peers, hstep.owner.station, hstep.owner.rx, hstep.owner.pending,
    hstep.owner.rstLow, fun hg hcl hd => ?_, fun hg hrec => ?_, fun hchanged hp => ?_, fun r hagrees hs hr => ?_⟩
  · rw [hcond, ← hc]
    rfl
  · rw [hcond] at hg hcl ⊢
    exact changeCondition_same ⟨hg, hcl⟩ hd
  · rw [hcond] at hg ⊢
    exact changeCondition_gradeFirst hg hrec
  · rw [hcond] at hchanged
    exact changeCondition_statusWaits (fun hsame => hchanged.elim (absurd hsame.1) (absurd hsame.2)) hp
  · rw [hcond]
    refine ⟨fun hfail hold hcls => ?_, fun hcl hn => changeCondition_keeps_claim hs hr ?_⟩
    · have hgrade : (c.formed (s.planOf n)).grade ≠ (s.condition n).grade := fun he => hold (he ▸ hfail)
      obtain ⟨hwithdrawn, hevents⟩ := changeCondition_withdraws hs hr (hagrees.may_of_claiming hs).1
        (fun hsame => hgrade hsame.1) (.inl ⟨hfail, hold, hcls⟩) (.inl hfail)
      refine ⟨hwithdrawn, fun hrec => ?_⟩
      rw [hevents hrec, if_pos hgrade, hfail]
      rfl
    · rintro (⟨hfail, hold, hcls⟩ | ⟨hlock, hnew⟩ | ⟨hnormal, hforce, -⟩)
      · rcases hn with hn | hn | hn
        · exact hn hfail
        · exact hold hn
        · rw [hcls] at hn
          cases hn
      · exact hnew (hrequest ▸ hlock)
      · rw [hcl, hforce] at hnormal
        cases hnormal

/-! ## FORCE, LOCKOUT and CLEAR (R81 to R84) -/

/-- The code byte stored and the result DONE, before the request takes effect (R150). -/
def accepting (code : Byte) (s : State) : State := setResult .done (storeCode code s)

@[simp] theorem accepting_condition (code : Byte) (n : Service) (s : State) :
    (accepting code s).condition n = s.condition n := rfl

@[simp] theorem withHost_condition (h : HostPort) (n : Service) (s : State) :
    (s.withHost h).condition n = s.condition n := rfl

/-- The content that an operator request brings (R82 to R84). -/
def ServiceCondition.asked (c : ServiceCondition) (r : Request) : ServiceCondition := { c with request := r }

theorem indexOfByte_of_toNat {b : Byte} {n : Fin 16} (h : b.toNat = n.val) : indexOfByte b = some n := by
  unfold indexOfByte
  rw [dif_pos (h ▸ n.isLt)]
  exact congrArg some (Fin.ext h)

/-- A request that passes the tests of R81 is accepted. -/
theorem operatorRequest_accepted {n : Service} {r : Request} {needsRank : Bool} {s : State}
    (hp : s.station.phase = .listen ∨ s.station.phase = .active) (hn : s.host.argument.toNat = n.val)
    (hrank : needsRank = true → (s.planOf n).rank ≠ 0) :
    operatorRequest r needsRank s =
      changeCondition n ((s.condition n).asked r) (setResult .done s) := by
  have hi := indexOfByte_of_toNat hn
  have htest : requestTest needsRank s = .done := by
    unfold requestTest
    rw [if_neg (by tauto), hi]
    exact if_neg fun h => hrank h.1 h.2
  unfold operatorRequest
  rw [htest, hi]
  rfl

/-- The three commands of Table 5-1 on their byte, accepted (R81, R147). -/
theorem exec_operatorRequest {s : State} {n : Service} {c : Instr} {code : Byte} {request : Request}
    (htxn : s.host.txn = .data .write (.at 0x0D)) (hp : s.station.phase = .listen ∨ s.station.phase = .active)
    (hn : s.host.argument.toNat = n.val)
    (hc : (c, code, request) ∈
      [(Instr.force, 0x10, Request.force), (Instr.lockout, 0x11, Request.lockout), (Instr.clear, 0x12, Request.none)])
    (hrank : c = .clear ∨ (s.planOf n).rank ≠ 0) :
    exec c s = .next (moveAddress (.at addrCode)
      (changeCondition n ((s.condition n).asked request) (accepting code s))) := by
  have htake : ∀ cmd : Command,
      takeCommand cmd s = moveAddress (.at addrCode) (runCommand cmd (storeCode cmd.code s)) := by
    intro cmd
    unfold takeCommand dataByte
    rw [htxn]
    rfl
  have haccept : ∀ (code : Byte) (r : Request) (b : Bool), (b = true → (s.planOf n).rank ≠ 0) →
      operatorRequest r b (storeCode code s) = changeCondition n ((s.condition n).asked r) (accepting code s) :=
    fun code _ _ hb => operatorRequest_accepted (s := storeCode code s) hp hn hb
  simp only [List.mem_cons, Prod.mk.injEq, List.not_mem_nil, or_false] at hc
  rcases hc with ⟨rfl, rfl, rfl⟩ | ⟨rfl, rfl, rfl⟩ | ⟨rfl, rfl, rfl⟩
  · have hb := hrank.resolve_left (by decide)
    exact congrArg Host.Outcome.next
      ((htake .force).trans (congrArg (moveAddress (.at addrCode)) (haccept 0x10 .force true fun _ => hb)))
  · have hb := hrank.resolve_left (by decide)
    exact congrArg Host.Outcome.next
      ((htake .lockout).trans (congrArg (moveAddress (.at addrCode)) (haccept 0x11 .lockout true fun _ => hb)))
  · exact congrArg Host.Outcome.next
      ((htake .clear).trans (congrArg (moveAddress (.at addrCode)) (haccept 0x12 .none false (by simp))))

/-- A request that does not lock the service out forms the grade that another such request formed (R79). -/
theorem formGrade_unlocked {p : PlanRecord} {d : Condition} {r q : Request} (hr : r ≠ .lockout) (hq : q ≠ .lockout) :
    formGrade p d r = formGrade p d q := by
  simp only [formGrade, hr, hq]

theorem formGrade_lockout (p : PlanRecord) (d : Condition) : formGrade p d .lockout = .unav :=
  if_pos (.inr (.inr rfl))

/-- A condition already in force, formed anew, changes nothing (R79). -/
theorem formedState_self {n : Service} {c : ServiceCondition} {s : State}
    (h : c.formed (s.planOf n) = s.condition n) : formedState n c s = s := by
  have hcond : place s.cond n (s.condition n) = s.cond := table_ext fun m => by
    by_cases hm : m = n
    · subst hm
      exact look_place_same ..
    · exact look_place_ne _ _ hm
  rw [formedState, h, putCondition, hcond]

section
variable {n : Service} {request : Request} {s : State} {r : ClaimRecord}

/-- A request already in force is no change (R81). -/
theorem changeCondition_asked_same (hr : (s.condition n).request = request)
    (hgrade : (s.condition n).grade = formGrade (s.planOf n) (s.condition n).debounced (s.condition n).request)
    (hcls : (s.condition n).cls = formClass (s.condition n).request)
    (hd : s.tx.state = .ready → s.tx.queue = emptyQueue) :
    changeCondition n ((s.condition n).asked request) s = s := by
  have hsame : ((s.condition n).asked request).formed (s.planOf n) = s.condition n := by
    subst hr
    simp only [ServiceCondition.asked, ServiceCondition.formed, ← hgrade, ← hcls]
  rw [changeCondition_same ⟨congrArg ServiceCondition.grade hsame, congrArg ServiceCondition.cls hsame⟩ hd]
  exact formedState_self hsame

variable (hs : (s.entry n).state = .claiming) (hr : (s.entry n).record = some r) (hmay : s.MayHold n)
  (hgrade : (s.condition n).grade = formGrade (s.planOf n) (s.condition n).debounced (s.condition n).request)
include hs hr hmay hgrade

/-- LOCKOUT ends an own claim: the grade becomes UNAV (R35, case 2). -/
theorem lockout_withdraws :
    s.Withdrawn (changeCondition n ((s.condition n).asked .lockout) s) n r ∧
      (s.CanRecord 2 →
        (changeCondition n ((s.condition n).asked .lockout) s).host.events =
          s.host.events ++ ([s.event .gradeChanged (some n) none none (some (.grade .unav))] ++
            [s.event .claimFailed (some n) none (some r.epoch) (some (.claimFailed .withdrawn))])) := by
  have hunav : (((s.condition n).asked .lockout).formed (s.planOf n)).grade = .unav := formGrade_lockout ..
  have hchanged : (((s.condition n).asked .lockout).formed (s.planOf n)).grade ≠ (s.condition n).grade := by
    rw [hunav]
    exact (hmay.grade_ne_unav hgrade).symm
  obtain ⟨hphase, -, -, hunlocked⟩ := hmay
  have hwithdraws := changeCondition_withdraws hs hr hphase (fun hsame => hchanged hsame.1)
    (.inr (.inl ⟨rfl, hunlocked⟩)) (.inr hunav)
  rw [if_pos hchanged, hunav] at hwithdraws
  exact hwithdraws

/-- The fall from FORCE at grade FAIL ends an own claim, with the grade as it was (R35, case 3). -/
theorem clear_withdraws (hforce : (s.condition n).cls = .force)
    (hfail : (((s.condition n).asked .none).formed (s.planOf n)).grade = .fail) :
    s.Withdrawn (changeCondition n ((s.condition n).asked .none) s) n r ∧
      (s.CanRecord 2 →
        (changeCondition n ((s.condition n).asked .none) s).host.events =
          s.host.events ++ [s.event .claimFailed (some n) none (some r.epoch) (some (.claimFailed .withdrawn))]) := by
  obtain ⟨hphase, -, -, hunlocked⟩ := hmay
  have hkept : (((s.condition n).asked .none).formed (s.planOf n)).grade = (s.condition n).grade :=
    (formGrade_unlocked (by simp [ServiceCondition.asked]) hunlocked).trans hgrade.symm
  have hnormal : (((s.condition n).asked .none).formed (s.planOf n)).cls = .normal := rfl
  have hwithdraws := changeCondition_withdraws hs hr hphase
    (fun hsame => by
      have hcls' := hsame.2
      rw [hnormal, hforce] at hcls'
      cases hcls')
    (.inr (.inr ⟨hnormal, hforce, hfail⟩)) (.inl hfail)
  rw [if_neg (not_not_intro hkept)] at hwithdraws
  exact hwithdraws

/-- A request that neither locks the service out nor lets it fall from FORCE at FAIL leaves an own claim as it is (R35). -/
theorem asked_keeps_claim (hlock : request ≠ .lockout)
    (h : request = .force ∨ (s.condition n).cls = .normal ∨
      (((s.condition n).asked request).formed (s.planOf n)).grade ≠ .fail) :
    (changeCondition n ((s.condition n).asked request) s).entry n = s.entry n := by
  obtain ⟨-, -, -, hunlocked⟩ := hmay
  have hkept : (((s.condition n).asked request).formed (s.planOf n)).grade = (s.condition n).grade :=
    (formGrade_unlocked hlock hunlocked).trans hgrade.symm
  refine changeCondition_keeps_claim hs hr ?_
  rintro (⟨hfail, hold, -⟩ | ⟨hlocked, -⟩ | ⟨hnormal, hforce, hfail⟩)
  · exact hold (hkept ▸ hfail)
  · exact hlock hlocked
  · rcases h with rfl | h | h
    · cases hnormal
    · rw [hforce] at h
      cases h
    · exact h hfail

/-- What an accepted request does to an own claim (R35, R36). -/
theorem asked_claim :
    (request = .lockout ∨
        (request = .none ∧ (s.condition n).cls = .force ∧
          (((s.condition n).asked request).formed (s.planOf n)).grade = .fail) →
      s.Withdrawn (changeCondition n ((s.condition n).asked request) s) n r ∧
        (s.CanRecord 2 →
          (changeCondition n ((s.condition n).asked request) s).host.events =
            s.host.events ++
              ((if request = .lockout then [s.event .gradeChanged (some n) none none (some (.grade .unav))] else []) ++
                [s.event .claimFailed (some n) none (some r.epoch) (some (.claimFailed .withdrawn))]))) ∧
    (request ≠ .lockout →
      request = .force ∨ (s.condition n).cls = .normal ∨
        (((s.condition n).asked request).formed (s.planOf n)).grade ≠ .fail →
      (changeCondition n ((s.condition n).asked request) s).entry n = s.entry n) := by
  refine ⟨?_, asked_keeps_claim hs hr hmay hgrade⟩
  rintro (rfl | ⟨rfl, hforce, hfail⟩)
  · exact lockout_withdraws hs hr hmay hgrade
  · exact clear_withdraws hs hr hmay hgrade hforce hfail

end

/-- Settles O52: the request is a change of the condition after the answer DONE, and an own claim is ended by a LOCKOUT
and by the fall from FORCE at FAIL alone. -/
theorem operatorRequests : Obligations.OperatorRequests := by
  intro s n c code request htxn hp hn hc hrank
  have hexec := exec_operatorRequest htxn hp hn hc hrank
  have hstep := changeCondition_entryStep n ((s.condition n).asked request) (accepting code s)
  have hcond := changeCondition_condition n ((s.condition n).asked request) (accepting code s)
  have hother : ∀ m, m ≠ n → _ = s.condition m := fun m hm =>
    changeCondition_condition_ne (s := accepting code s) (c := (s.condition n).asked request) hm
  have hfirst := changeCondition_gradeFirst (n := n) (c := (s.condition n).asked request) (s := accepting code s)
  have hstatus := changeCondition_statusWaits (n := n) (c := (s.condition n).asked request) (s := accepting code s)
  have hsame := changeCondition_asked_same (n := n) (request := request) (s := accepting code s)
  have hclaim := fun r (hagrees : s.EntryAgrees n) (hblocks : s.BlocksAgree) hs hr =>
    asked_claim (s := accepting code s) (n := n) (request := request) (r := r) hs hr (hagrees.may_of_claiming hs)
      (hblocks.grades n)
  simp only [accepting_condition] at hsame hclaim
  generalize changeCondition n ((s.condition n).asked request) (accepting code s) = u
    at hexec hstep hcond hother hfirst hstatus hsame hclaim
  have hhost := hstep.owner.host
  have hcode : u.host.code = code := by rw [hhost]; rfl
  have hresult : u.host.result = .done := by rw [hhost]; rfl
  have hmove : moveAddress (.at addrCode) u = u.withHost { u.host with txn := .data .write .pastEnd } :=
    moveAddress_code (by rw [hhost]; exact htxn)
  rw [hmove] at hexec
  refine ⟨_, hexec, hresult, hcode, rfl, hcond, hother, hstep.others, hstep.owner.timebase, hstep.owner.peers,
    hstep.owner.station, hstep.owner.rx, hstep.owner.pending, hstep.owner.rstLow, fun hg hrec => ?_, fun hchanged => ?_,
    fun r hagrees hblocks hs hr => ?_, fun hrequest hblocks htx => ?_⟩
  · rw [withHost_condition, hcond] at hg ⊢
    exact hfirst hg hrec
  · rw [withHost_condition, hcond] at hchanged
    exact hstatus (fun hsame => hchanged.elim (absurd hsame.1) (absurd hsame.2)) hp
  · rw [withHost_condition, hcond]
    obtain ⟨hends, hkeeps⟩ := hclaim r hagrees hblocks hs hr
    refine ⟨fun hdue => ?_, hkeeps⟩
    obtain ⟨hwithdrawn, hevents⟩ := hends hdue
    exact ⟨State.Withdrawn.congr (u := accepting code s) (t := u) rfl rfl rfl rfl rfl rfl hwithdrawn, hevents⟩
  · rw [hsame hrequest (hblocks.grades n) (hblocks.classes n) htx.drained]
    rfl

end Sys2Proof.Machine

/-! An accepted LOCKOUT (R53, R54, R83): what it does to a HELD entry, and to an entry that this station neither holds
nor claims. -/

namespace Sys2Proof.Machine

/-! ## The evaluation of a station that is no candidate (R12, R16 to R18) -/

section
variable {n : Service} {s : State}

theorem ownCandidate_of_unav (hg : (s.condition n).grade = .unav) : s.ownCandidate n = false := by
  simp [State.ownCandidate, hg]

theorem ownBest_of_no_candidate (hc : s.ownCandidate n = false) : s.ownBest n = false := by
  simp [State.ownBest, hc]

/-- Nothing is claimed and no WTR timer stands without a candidacy (R16, R17). -/
theorem evaluate_of_no_candidate (ha : s.station.phase = .active) (hc : s.ownCandidate n = false)
    (hs : (s.entry n).state = .vacant ∨ (s.entry n).state = .orphaned ∨ (s.entry n).state = .remote) :
    evaluate n s = removeWtr n s := by
  have hb := ownBest_of_no_candidate hc
  have hfree : evaluateFree n s = removeWtr n s := evaluateFree_stays (.inl hb)
  rcases hs with hs | hs | hs
  · rw [evaluate_of_free ha (.inl hs), hfree]
  · rw [evaluate_of_free ha (.inr hs), hfree]
  · simp only [evaluate]
    rw [if_neg (not_not_intro ha)]
    simp only [hs]
    split
    · split
      · exact evaluateRemote_stays hb
      · rfl
    · rfl

/-- A WATCHING entry stays as it is without a candidacy (R18, case 3). -/
theorem evaluate_watching_of_no_candidate (hc : s.ownCandidate n = false) (hs : (s.entry n).state = .watching) :
    evaluate n s = s := by
  simp only [evaluate, hs]
  split
  · rfl
  · split
    · exact evaluateWatching_stays (.inr (.inl hc))
    · rfl

end

/-! ## LOCKOUT at a HELD entry (R53) -/

section
variable {n : Service} {u : State} {old : ServiceCondition}

/-- The service dropped with its RELEASE asked for, before the evaluation (R43, R53). -/
def lockedOut (n : Service) (u : State) : State :=
  requestRelease n (u.entry n).heldEpoch .lockout
    (leaveHeld n none (u.entry n).epoch .vacant (u.entry n).retryHold .lockout u)

theorem releaseOnLockout_eq (n : Service) (u : State) : releaseOnLockout n u = evaluate n (lockedOut n u) := rfl

theorem lockedOut_step (n : Service) (u : State) : OwnerStep u (lockedOut n u) :=
  (leaveHeld_step ..).trans (requestRelease_step ..)

theorem lockedOut_entry (hs : (u.entry n).state = .held) :
    (lockedOut n u).entry n = { u.entry n with state := .vacant, owner := none, changed := u.timebase } := by
  rw [lockedOut, requestRelease, request_entry, leaveHeld, post_entry, putEntry_entry_same,
    stamp_of_changed (.inl (by simp [hs]))]

theorem lockedOut_host (n : Service) (u : State) :
    (lockedOut n u).host =
      (post .svcDropped (some n) none (u.entry n).epoch (some (.dropped .lockout)) u).host := request_host ..

theorem lockedOut_releaseStands (ha : u.station.phase = .active) :
    (lockedOut n u).ReleaseStands { service := n, epoch := (u.entry n).heldEpoch, reason := .lockout } :=
  request_releaseStands (by rw [(leaveHeld_step ..).station, ha]; rfl) _

theorem withdrawIfDue_of_no_claim (hs : (u.entry n).state ≠ .claiming) : withdrawIfDue n old u = u := by
  unfold withdrawIfDue withdrawOwn
  split
  · split
    · next h _ => exact absurd h hs
    · rfl
  · rfl

theorem releaseIfLocked_of_held (hl : (u.condition n).request = .lockout) (hs : (u.entry n).state = .held) :
    releaseIfLocked n u = releaseOnLockout n u := if_pos ⟨hl, hs⟩

/-- The report of a LOCKOUT to a HELD entry drops the service; each evaluation on the way removes a WTR timer and no
more. -/
theorem takeReport_locksOut (ha : u.station.phase = .active) (hs : (u.entry n).state = .held)
    (hl : (u.condition n).request = .lockout) (hg : (u.condition n).grade = .unav) :
    takeReport n old u = statusQueued (removeWtr n (lockedOut n (removeWtr n u))) := by
  have hheld : ((removeWtr n u).entry n).state = .held := by rw [removeWtr_entry]; exact hs
  have hstep : OwnerStep u (lockedOut n (removeWtr n u)) := (removeWtr_step n u).trans (lockedOut_step n _)
  have hactive : (lockedOut n (removeWtr n u)).station.phase = .active := by rw [hstep.station]; exact ha
  have hlast : evaluate n (lockedOut n (removeWtr n u)) = removeWtr n (lockedOut n (removeWtr n u)) :=
    evaluate_of_no_candidate hactive (ownCandidate_of_unav (by rw [hstep.condition]; exact hg))
      (.inl (by rw [lockedOut_entry hheld]))
  rw [takeReport, evaluate_held_active ha hs, withdrawIfDue_of_no_claim (by simp [hheld]),
    releaseIfLocked_of_held (u := removeWtr n u) hl hheld, releaseOnLockout_eq, hlast]
  exact reportStatus_active hactive

/-- What the report of a LOCKOUT leaves of a HELD entry, with its RELEASE and its event (R53). -/
theorem takeReport_drops (ha : u.station.phase = .active) (hs : (u.entry n).state = .held)
    (hl : (u.condition n).request = .lockout) (hg : (u.condition n).grade = .unav) :
    (takeNext (takeReport n old u)).entry n =
        { u.entry n with state := .vacant, owner := none, wtr := none, changed := u.timebase } ∧
      look (takeNext (takeReport n old u)).oc.drv n = false ∧
      (takeNext (takeReport n old u)).ReleaseWaits
        { service := n, epoch := (u.entry n).heldEpoch, reason := .lockout } ∧
      (takeNext (takeReport n old u)).host =
        (post .svcDropped (some n) none (u.entry n).epoch (some (.dropped .lockout)) u).host := by
  have hwtr := removeWtr_entry n u
  have hentry := lockedOut_entry (u := removeWtr n u) (n := n) (by rw [hwtr]; exact hs)
  rw [takeReport_locksOut ha hs hl hg]
  have hoc : (takeNext (statusQueued (removeWtr n (lockedOut n (removeWtr n u))))).oc =
      (removeWtr n (lockedOut n (removeWtr n u))).oc := takeNext_oc _
  refine ⟨?_, ?_, ?_, ?_⟩
  · rw [entry_of_oc hoc, removeWtr_entry, hentry, hwtr]
    rfl
  · rw [hoc]
    exact removeWtr_drv_off (by rw [hentry]; simp)
  · have hstands := lockedOut_releaseStands (u := removeWtr n u) (n := n) ha
    rw [hwtr] at hstands
    exact (takeNext_releaseStands (s := statusQueued (removeWtr n (lockedOut n (removeWtr n u)))) hstands).waits
  · rw [takeNext_host]
    refine (lockedOut_host n (removeWtr n u)).trans ?_
    rw [hwtr]
    rfl

end

/-! ## LOCKOUT where this station neither holds nor claims (R54) -/

section
variable {n : Service} {u : State} {old : ServiceCondition}

theorem takeNext_reportStatus_oc (u : State) : (takeNext (reportStatus u)).oc = u.oc := by
  rw [takeNext_oc, reportStatus]
  split
  · exact enqueue_oc ..
  · rfl

variable (hc : u.ownCandidate n = false) (hs : (u.entry n).state ≠ .held) (hq : (u.entry n).state ≠ .claiming)
include hc hs hq

/-- Without a candidacy an evaluation in ACTIVE removes the WTR timer, but for a WATCHING entry; elsewhere it does
nothing (R15 to R18). -/
theorem evaluate_cases_of_no_candidate :
    ((u.station.phase ≠ .active ∨ (u.entry n).state = .watching) ∧ evaluate n u = u) ∨
      (u.station.phase = .active ∧ (u.entry n).state ≠ .watching ∧ evaluate n u = removeWtr n u) := by
  by_cases ha : u.station.phase = .active
  · cases hstate : (u.entry n).state with
    | vacant => exact .inr ⟨ha, by simp, evaluate_of_no_candidate ha hc (.inl hstate)⟩
    | held => exact absurd hstate hs
    | remote => exact .inr ⟨ha, by simp, evaluate_of_no_candidate ha hc (.inr (.inr hstate))⟩
    | orphaned => exact .inr ⟨ha, by simp, evaluate_of_no_candidate ha hc (.inr (.inl hstate))⟩
    | claiming => exact absurd hstate hq
    | watching => exact .inl ⟨.inr rfl, evaluate_watching_of_no_candidate hc hstate⟩
  · exact .inl ⟨.inl ha, evaluate_of_not_active ha⟩

/-- A report to a station that is no candidate evaluates the entry, and withdraws and releases nothing (R80). -/
theorem takeReport_evaluates : takeReport n old u = reportStatus (evaluate n u) := by
  have hkept : ((evaluate n u).entry n).state = (u.entry n).state := by
    rcases evaluate_cases_of_no_candidate hc hs hq with ⟨-, he⟩ | ⟨-, -, he⟩ <;> rw [he]
    rw [removeWtr_entry]
  rw [takeReport, withdrawIfDue_of_no_claim (by rw [hkept]; exact hq),
    releaseIfLocked_of_not_held (by rw [hkept]; exact hs)]

theorem takeReport_ends_candidacy :
    (u.station.phase = .active → (u.entry n).state ≠ .watching →
      (takeNext (takeReport n old u)).entry n = { u.entry n with wtr := none }) ∧
    (u.station.phase ≠ .active ∨ (u.entry n).state = .watching →
      (takeNext (takeReport n old u)).entry n = u.entry n) ∧
    (takeNext (takeReport n old u)).host = u.host := by
  rw [takeReport_evaluates hc hs hq, entry_of_oc (takeNext_reportStatus_oc _), takeNext_host, reportStatus_host,
    evaluate_host]
  rcases evaluate_cases_of_no_candidate hc hs hq with ⟨hstays, he⟩ | ⟨ha, hw, he⟩ <;> rw [he]
  · exact ⟨fun ha hw => (hstays.elim (absurd ha) (absurd · hw)), fun _ => rfl, rfl⟩
  · exact ⟨fun _ _ => removeWtr_entry n u, fun hstays => hstays.elim (absurd ha) (absurd · hw), rfl⟩

end

/-! ## LOCKOUT as a change of the condition (R80, R83) -/

/-- A rank is a defined service's, so that LOCKOUT alone makes its grade UNAV (R79, R149). -/
theorem State.BlocksAgree.grade_ne_unav {s : State} {n : Service} (h : s.BlocksAgree) (hr : (s.planOf n).rank ≠ 0)
    (hl : (s.condition n).request ≠ .lockout) : (s.condition n).grade ≠ .unav := by
  have hd : (s.planOf n).defined ≠ false := fun hd => hr (h.ranks n hd)
  rw [h.grades n]
  unfold formGrade
  rw [if_neg (by simp [hd, hr, hl])]
  split <;> simp

section
variable {n : Service} {s : State}

/-- The state with the request set and GRADE_CHANGED(UNAV) posted, before the Ownership Controller acts (R80, R83). -/
def lockoutPosted (n : Service) (s : State) : State := gradePosted n ((s.condition n).asked .lockout) s

theorem lockoutPosted_condition (n : Service) (s : State) :
    ((lockoutPosted n s).condition n).grade = .unav ∧ ((lockoutPosted n s).condition n).request = .lockout := by
  rw [lockoutPosted, gradePosted_condition]
  exact ⟨formGrade_lockout .., rfl⟩

/-- The request of LOCKOUT taken in full (R81, R83). -/
def lockoutTaken (n : Service) (s : State) : State := changeCondition n ((s.condition n).asked .lockout) s

theorem lockoutTaken_step (n : Service) (s : State) :
    EntryStep n (formedState n ((s.condition n).asked .lockout) s) (lockoutTaken n s) := changeCondition_entryStep ..

theorem lockoutTaken_grade (n : Service) (s : State) : ((lockoutTaken n s).condition n).grade = .unav := by
  rw [lockoutTaken, changeCondition_condition]
  exact formGrade_lockout ..

variable (hg : (s.condition n).grade ≠ .unav)
include hg

theorem asked_lockout_changes : ¬((s.condition n).asked .lockout).SameReport (s.planOf n) (s.condition n) :=
  fun hsame => hg (hsame.1.symm.trans (formGrade_lockout ..))

theorem lockoutTaken_eq :
    lockoutTaken n s = takeNext (takeReport n (s.condition n) (lockoutPosted n s)) := by
  rw [lockoutTaken, changeCondition, updateCondition_changed (asked_lockout_changes hg)]
  rfl

theorem lockoutTaken_statusWaits (hp : s.station.phase = .listen ∨ s.station.phase = .active) :
    (lockoutTaken n s).StatusWaits := changeCondition_statusWaits (asked_lockout_changes hg) hp

theorem lockoutPosted_records {k : Nat} (hrec : s.CanRecord (k + 1)) :
    (lockoutPosted n s).CanRecord k ∧
      (lockoutPosted n s).host.events =
        s.host.events ++ [s.event .gradeChanged (some n) none none (some (.grade .unav))] := by
  have hunav : (((s.condition n).asked .lockout).formed (s.planOf n)).grade = .unav := formGrade_lockout ..
  rw [lockoutPosted, gradePosted_of_changed (by rw [hunav]; exact hg.symm), hunav]
  exact ⟨State.CanRecord.post (s := formedState ..) _ _ _ _ _ hrec,
    State.CanRecord.post_events (s := formedState ..) _ _ _ _ _ hrec⟩

/-- LOCKOUT on a HELD service (R53). -/
theorem lockout_drops (ha : s.station.phase = .active) (hs : (s.entry n).state = .held) :
    (lockoutTaken n s).entry n =
        { s.entry n with state := .vacant, owner := none, wtr := none, changed := s.timebase } ∧
      look (lockoutTaken n s).oc.drv n = false ∧
      (lockoutTaken n s).ReleaseWaits { service := n, epoch := (s.entry n).heldEpoch, reason := .lockout } ∧
      (s.CanRecord 2 →
        (lockoutTaken n s).host.events =
          s.host.events ++
            [s.event .gradeChanged (some n) none none (some (.grade .unav)),
              s.event .svcDropped (some n) none (s.entry n).epoch (some (.dropped .lockout))]) := by
  have hstep := gradePosted_step n ((s.condition n).asked .lockout) s
  have hentry : (lockoutPosted n s).entry n = s.entry n := gradePosted_entry
  have htime : (lockoutPosted n s).timebase = s.timebase := hstep.timebase
  obtain ⟨hunav, hlock⟩ := lockoutPosted_condition n s
  obtain ⟨hdropped, hdrv, hrelease, hhost⟩ := takeReport_drops (old := s.condition n) (u := lockoutPosted n s)
    ((congrArg StationController.phase hstep.station).trans ha) (by rw [hentry]; exact hs) hlock hunav
  rw [hentry] at hdropped hrelease hhost
  rw [lockoutTaken_eq hg]
  refine ⟨by rw [hdropped, htime], hdrv, hrelease, fun hrec => ?_⟩
  obtain ⟨hroom, hevents⟩ := lockoutPosted_records hg (k := 1) hrec
  rw [hhost, State.CanRecord.post_events (k := 0) _ _ _ _ _ hroom, hevents, List.append_assoc]
  simp only [State.event, htime]
  rfl

/-- LOCKOUT on a service that this station neither holds nor claims (R54). -/
theorem lockout_ends_candidacy (hs : (s.entry n).state ≠ .held) (hq : (s.entry n).state ≠ .claiming) :
    (s.station.phase = .active → (s.entry n).state ≠ .watching →
      (lockoutTaken n s).entry n = { s.entry n with wtr := none }) ∧
    (s.station.phase ≠ .active ∨ (s.entry n).state = .watching → (lockoutTaken n s).entry n = s.entry n) ∧
    (s.CanRecord 1 →
      (lockoutTaken n s).host.events =
        s.host.events ++ [s.event .gradeChanged (some n) none none (some (.grade .unav))]) := by
  have hentry : (lockoutPosted n s).entry n = s.entry n := gradePosted_entry
  have hstation : (lockoutPosted n s).station = s.station := (gradePosted_step ..).station
  obtain ⟨hactive, hstays, hhost⟩ := takeReport_ends_candidacy (old := s.condition n) (u := lockoutPosted n s)
    (ownCandidate_of_unav (lockoutPosted_condition n s).1) (by rw [hentry]; exact hs) (by rw [hentry]; exact hq)
  rw [hentry, hstation] at hactive hstays
  rw [lockoutTaken_eq hg]
  refine ⟨hactive, hstays, fun hrec => ?_⟩
  rw [hhost]
  exact (lockoutPosted_records hg (k := 0) hrec).2

end

/-! ## The command -/

theorem exec_lockout {s : State} {n : Service} (htxn : s.host.txn = .data .write (.at 0x0D))
    (hn : s.host.argument.toNat = n.val) (hp : s.station.phase = .listen ∨ s.station.phase = .active)
    (hrank : (s.planOf n).rank ≠ 0) :
    exec .lockout s = .next (moveAddress (.at addrCode) (lockoutTaken n (accepting 0x11 s))) :=
  exec_operatorRequest htxn hp hn (by simp) (.inr hrank)

theorem moveAddress_fields (a : HostAddress) (s : State) :
    moveAddress a s = s.withHost { s.host with txn := (moveAddress a s).host.txn } := by
  unfold moveAddress
  split <;> rfl

section
variable (a : HostAddress) (s : State)

theorem moveAddress_oc : (moveAddress a s).oc = s.oc := by rw [moveAddress_fields, withHost_oc]

theorem moveAddress_tx : (moveAddress a s).tx = s.tx := by rw [moveAddress_fields, withHost_tx]

theorem moveAddress_events : (moveAddress a s).host.events = s.host.events := by rw [moveAddress_fields, withHost_host]

theorem moveAddress_condition (n : Service) : (moveAddress a s).condition n = s.condition n := by
  rw [moveAddress_fields, withHost_condition]

theorem moveAddress_releaseWaits (x : ReleaseEntry) : (moveAddress a s).ReleaseWaits x ↔ s.ReleaseWaits x := by
  rw [State.ReleaseWaits, moveAddress_tx, State.ReleaseWaits]

theorem moveAddress_statusWaits : (moveAddress a s).StatusWaits ↔ s.StatusWaits := by
  rw [State.StatusWaits, moveAddress_tx, State.StatusWaits]

end

/-- The grade, the early STATUS and the other entries, whatever the state of the entry (R80, R83). -/
theorem lockout_reports {n : Service} {s : State} (a : HostAddress)
    (hp : s.station.phase = .listen ∨ s.station.phase = .active) (hg : (s.condition n).grade ≠ .unav) :
    ((moveAddress a (lockoutTaken n (accepting 0x11 s))).condition n).grade = .unav ∧
      (moveAddress a (lockoutTaken n (accepting 0x11 s))).StatusWaits ∧
      s.OtherEntries (moveAddress a (lockoutTaken n (accepting 0x11 s))) n := by
  rw [moveAddress_condition, moveAddress_statusWaits]
  exact ⟨lockoutTaken_grade n _, lockoutTaken_statusWaits (s := accepting 0x11 s) hg hp,
    (lockoutTaken_step n (accepting 0x11 s)).others.trans (.of_oc (moveAddress_oc ..) n)⟩

/-- Settles O53: LOCKOUT makes the grade UNAV; the report that follows drops a HELD service, and elsewhere evaluates
the entry of a station that is no candidate any more. -/
theorem lockoutReleases : Obligations.LockoutReleases := by
  intro s n htxn hn hblocks
  have hoc := moveAddress_oc (.at addrCode) (lockoutTaken n (accepting 0x11 s))
  have hentry := entry_of_oc hoc n
  have hevents := moveAddress_events (.at addrCode) (lockoutTaken n (accepting 0x11 s))
  refine ⟨fun hs hagrees => ?_, fun hs hq hp hrank hunlocked => ?_⟩
  · obtain ⟨-, hrecord, ha, hrank, -, hunlocked⟩ := (entryAgrees_held hs).1 hagrees
    have hg := hblocks.grade_ne_unav hrank hunlocked
    obtain ⟨hunav, hstatus, hothers⟩ := lockout_reports (.at addrCode) (.inr ha) hg
    obtain ⟨hdropped, hdrv, hrelease, hposted⟩ := lockout_drops (s := accepting 0x11 s) hg ha hs
    refine ⟨_, exec_lockout htxn hn (.inr ha) hrank, ?_⟩
    rw [hentry, hoc, hevents, moveAddress_releaseWaits, hdropped]
    exact ⟨rfl, rfl, rfl, hrecord, rfl, hdrv, hothers, hrelease, hstatus, hunav, hposted⟩
  · have hg := hblocks.grade_ne_unav hrank hunlocked
    obtain ⟨hunav, hstatus, hothers⟩ := lockout_reports (.at addrCode) hp hg
    obtain ⟨hactive, hstays, hposted⟩ := lockout_ends_candidacy (s := accepting 0x11 s) hg hs hq
    refine ⟨_, exec_lockout htxn hn hp hrank, hunav, ownCandidate_of_unav hunav, hstatus, hothers, ?_⟩
    rw [hentry, hevents]
    refine ⟨hactive, fun h => hstays (h.imp (fun hl ha => ?_) id), hposted⟩
    rw [show s.station.phase = .active from ha] at hl
    cases hl

end Sys2Proof.Machine

/-! What every step keeps of the outputs: RST, which HARD_RESET alone moves, the blocks at their hard-reset values while
it is low (R117), the drives and the Host Port (R42, R153, R155), and the levels that the pins then carry (chapter 11). -/

namespace Sys2Proof.Machine

/-! ## RST is moved by HARD_RESET alone (R117)

One equation for each operation that is no `OwnerStep`, in the order of the model. -/

theorem takeNext_rstLow (s : State) : (takeNext s).rstLow = s.rstLow := (takeNext_step s).rstLow

theorem forEach_rstLow {f : Fin 16 → State → State} (h : ∀ n s, (f n s).rstLow = s.rstLow) (s : State) :
    (forEach f s).rstLow = s.rstLow :=
  forEach_keeps (P := fun t => t.rstLow = s.rstLow) (fun n t ht => (h n t).trans ht) rfl

/-! Condition Monitor -/

theorem changeCondition_rstLow (n : Service) (c : ServiceCondition) (s : State) :
    (changeCondition n c s).rstLow = s.rstLow := (changeCondition_entryStep n c s).owner.rstLow

theorem updateCondition_rstLow (n : Service) (c : ServiceCondition) (s : State) :
    (updateCondition n c s).rstLow = s.rstLow :=
  (takeNext_rstLow _).symm.trans (changeCondition_rstLow n c s)

theorem debounce_rstLow (n : Service) (s : State) : (debounce n s).rstLow = s.rstLow := changeCondition_rstLow ..

theorem rawChanged_rstLow (n : Service) (s : State) : (rawChanged n s).rstLow = s.rstLow := by
  simp only [rawChanged]
  split
  · rfl
  · split
    · split
      · exact debounce_rstLow ..
      · rfl
    · rfl

theorem operatorRequest_rstLow (r : Request) (b : Bool) (s : State) : (operatorRequest r b s).rstLow = s.rstLow := by
  unfold operatorRequest
  split
  · exact changeCondition_rstLow _ _ (setResult .done s)
  · rfl

/-! Peer Monitor -/

theorem refreshIsolated_rstLow (j : Option StationId) (s : State) : (refreshIsolated j s).rstLow = s.rstLow :=
  (refreshIsolated_step j s).rstLow

theorem peerReport_rstLow (p : StationId) (b : Bool) (s : State) :
    (reportFlag b (reportPeerState p s)).rstLow = s.rstLow :=
  ((reportPeerState_step p s).trans (reportFlag_step b _)).rstLow

theorem becomeIncompatible_rstLow (p : StationId) (s : State) : (becomeIncompatible p s).rstLow = s.rstLow :=
  (peerReport_rstLow ..).trans (refreshIsolated_rstLow ..)

theorem takeMismatch_rstLow (p : StationId) (s : State) : (takeMismatch p s).rstLow = s.rstLow := by
  unfold takeMismatch
  split
  · rfl
  · exact becomeIncompatible_rstLow ..

theorem arrive_rstLow (p : StationId) (b : FrameBody) (s : State) : (arrive p b s).rstLow = s.rstLow := by
  simp only [arrive]
  split
  · exact (requestStatus_step _).rstLow
  · rfl

theorem stateStep_rstLow (p : StationId) (b : FrameBody) (f : Bool) (s : State) :
    (stateStep p b f s).rstLow = s.rstLow := by
  simp only [stateStep]
  split
  · split
    · exact refreshIsolated_rstLow ..
    · rfl
  · rfl
  · rfl
  · exact arrive_rstLow ..
  · exact arrive_rstLow ..
  · exact arrive_rstLow ..

theorem depart_rstLow (p : StationId) (s : State) : (depart p s).rstLow = s.rstLow :=
  ((reportDeparture_step p _).trans (reportFlag_step ..)).rstLow.trans (refreshIsolated_rstLow ..)

theorem replaceData_rstLow (p : StationId) (b : FrameBody) (s : State) : (replaceData p b s).rstLow = s.rstLow := by
  cases b <;> rfl

theorem reportChange_rstLow (p : StationId) (c f : Bool) (s : State) : (reportChange p c f s).rstLow = s.rstLow := by
  unfold reportChange
  split
  · exact peerReport_rstLow ..
  · rfl

theorem departIfLeaving_rstLow (p : StationId) (b : FrameBody) (s : State) :
    (departIfLeaving p b s).rstLow = s.rstLow := by
  unfold departIfLeaving
  split
  · exact depart_rstLow ..
  · rfl

theorem takeData_rstLow (p : StationId) (b : FrameBody) (f : Bool) (s : State) :
    (takeData p b f s).rstLow = s.rstLow := by
  simp only [takeData, departIfLeaving_rstLow, (deliver_step ..).rstLow, reportChange_rstLow, replaceData_rstLow,
    stateStep_rstLow]

theorem takeFrame_rstLow (f : Frame) (s : State) : (takeFrame f s).rstLow = s.rstLow := by
  simp only [takeFrame]
  split
  · exact takeMismatch_rstLow ..
  · split
    · rfl
    · exact takeData_rstLow ..

theorem becomeSilent_rstLow (p : StationId) (a : Bool) (s : State) : (becomeSilent p a s).rstLow = s.rstLow := by
  have hannounce : ∀ u, (announceSilence p a u).rstLow = u.rstLow := by
    intro u
    unfold announceSilence
    split <;> rfl
  exact (peerReport_rstLow ..).trans ((refreshIsolated_rstLow ..).trans (hannounce _))

theorem peerTimerRunsOut_rstLow (p : StationId) (s : State) : (peerTimerRunsOut p s).rstLow = s.rstLow := by
  unfold peerTimerRunsOut silenceRunsOut
  split
  · split
    · exact becomeSilent_rstLow ..
    · exact becomeSilent_rstLow ..
    · exact (reportPeerState_step ..).rstLow
    · rfl
    · rfl
    · rfl
  · rfl

/-! Station Controller -/

theorem enqueue_rstLow (f : TxQueue → TxQueue) (s : State) : (enqueue f s).rstLow = s.rstLow := by
  rw [enqueue_fields, withTx_rstLow]

theorem startStation_rstLow (s : State) : (startStation s).rstLow = s.rstLow := by
  have hentry : ∀ u, (forEach listenEntry u).rstLow = u.rstLow :=
    forEach_rstLow fun n u => updateCondition_rstLow n _ u
  simp only [startStation, post_rstLow, takeNext_rstLow, hentry, enqueue_rstLow, withRx_rstLow, withStation_rstLow]

theorem listenRunsOut_rstLow (s : State) : (listenRunsOut s).rstLow = s.rstLow := by
  unfold listenRunsOut
  split
  · simp only [enterActive, changePhase, post_rstLow, (reportFlag_step ..).rstLow, (evaluateAll_step _).rstLow,
      refreshIsolated_rstLow, setPhase_rstLow, withStation_rstLow]
  · rfl

theorem statusRunsOut_rstLow (s : State) : (statusRunsOut s).rstLow = s.rstLow := by
  unfold statusRunsOut
  split
  · exact (requestStatus_step _).rstLow
  · rfl

theorem leaveStation_rstLow (s : State) : (leaveStation s).rstLow = s.rstLow := (leaveStation_left s).rstLow

theorem requestMuted_rstLow (c : MuteCause) (s : State) : (requestMuted c s).rstLow = s.rstLow := by
  have htable : (forEach muteEntry (stopTimers (setPhase .muted s))).rstLow = s.rstLow := (muteTable_step s).rstLow
  have hmute : (muteStation c s).rstLow = s.rstLow := by
    rw [muteStation, post_rstLow, refreshIsolated_rstLow, muteTransmitter_fields, withTx_rstLow, htable]
  unfold requestMuted
  split
  · exact hmute
  · rfl

theorem frameFinished_rstLow (s : State) : (frameFinished s).rstLow = s.rstLow := by
  unfold frameFinished
  split <;> rfl

/-! Transmitter -/

theorem finishFrame_rstLow (s : State) : (finishFrame s).rstLow = s.rstLow :=
  (takeNext_rstLow _).trans (frameFinished_rstLow _)

theorem attemptStart_rstLow (s : State) : (attemptStart s).rstLow = s.rstLow := by
  unfold attemptStart
  split
  · split
    · split
      · rfl
      · exact finishFrame_rstLow s
    · rfl
  · rfl

theorem giveUp_rstLow (f : Flight) (s : State) : (giveUp f s).rstLow = s.rstLow := by
  simp only [giveUp]
  split
  · exact (finishFrame_rstLow _).trans (claimGivenUp_step ..).rstLow
  · exact finishFrame_rstLow _
  · exact finishFrame_rstLow _
  · exact finishFrame_rstLow _

theorem endClean_rstLow (f : Flight) (s : State) : (endClean f s).rstLow = s.rstLow := by
  simp only [endClean]
  split
  · rfl
  · split
    · exact (finishFrame_rstLow _).trans (claimSentClean_step ..).rstLow
    · exact finishFrame_rstLow _
    · exact finishFrame_rstLow _
    · exact finishFrame_rstLow _

theorem endCollided_rstLow (f : Flight) (s : State) : (endCollided f s).rstLow = s.rstLow := by
  simp only [endCollided]
  split
  · rfl
  · split
    · rfl
    · exact giveUp_rstLow ..

theorem endDeaf_rstLow (f : Flight) (s : State) : (endDeaf f s).rstLow = s.rstLow := by
  simp only [endDeaf]
  split
  · rfl
  · split
    · exact requestMuted_rstLow ..
    · split
      · rfl
      · exact giveUp_rstLow ..

theorem attemptClean_rstLow (s : State) : (attemptClean s).rstLow = s.rstLow := by
  unfold attemptClean
  split
  · exact endClean_rstLow ..
  · rfl

theorem attemptDeaf_rstLow (s : State) : (attemptDeaf s).rstLow = s.rstLow := by
  unfold attemptDeaf
  split
  · exact endDeaf_rstLow ..
  · rfl

/-! The line -/

theorem routeFrame_rstLow (f : Frame) (s : State) : (routeFrame f s).rstLow = s.rstLow := by
  unfold routeFrame
  split
  · split
    · rfl
    · exact requestMuted_rstLow ..
  · exact takeFrame_rstLow ..

theorem frameEnds_rstLow (c : List Bool) (past : Bool) (r : Receiver) (s : State) :
    (frameEnds c past r s).rstLow = s.rstLow := by
  simp only [frameEnds]
  split
  · exact routeFrame_rstLow ..
  · rfl
  · rfl

theorem passBits_rstLow (k : Nat) (s : State) : (passBits k s).rstLow = s.rstLow := by
  rw [passBits_fields, withTx_rstLow]

theorem collidedWith_rstLow (f : Flight) (r : Receiver) (ev : LineEvent) (s : State) :
    (collidedWith f r ev s).rstLow = s.rstLow := by
  simp only [collidedWith]
  split
  · split
    · split
      · exact endCollided_rstLow ..
      · exact (takeFrame_rstLow ..).trans (endCollided_rstLow ..)
    · exact endCollided_rstLow ..
    · exact endCollided_rstLow ..
  · exact endCollided_rstLow ..
  · exact endCollided_rstLow ..
  · exact endCollided_rstLow ..

theorem attemptCollided_rstLow (line : List Symbol) (s : State) : (attemptCollided line s).rstLow = s.rstLow := by
  unfold attemptCollided
  split
  · split
    · exact collidedWith_rstLow ..
    · rfl
  · rfl

theorem frameReceived_rstLow (line : List Symbol) (s : State) : (frameReceived line s).rstLow = s.rstLow := by
  unfold frameReceived
  split
  · rfl
  · split
    · split
      · exact attemptClean_rstLow s
      · exact collidedWith_rstLow ..
      · rfl
    · split
      · exact (frameEnds_rstLow ..).trans (passBits_rstLow ..)
      · rfl

theorem codeError_rstLow (line : List Symbol) (s : State) : (codeError line s).rstLow = s.rstLow := by
  unfold codeError
  split
  · rfl
  · split
    · split
      · exact collidedWith_rstLow ..
      · rfl
    · split
      · exact passBits_rstLow ..
      · rfl

theorem lineIdle_rstLow (line : List Symbol) (s : State) : (lineIdle line s).rstLow = s.rstLow := by
  unfold lineIdle
  split
  · rfl
  · split
    · exact passBits_rstLow ..
    · rfl

theorem backOffEnd_rstLow (line : List Symbol) (s : State) : (backOffEnd line s).rstLow = s.rstLow := by
  unfold backOffEnd
  split
  · split <;> rfl
  · rfl

/-! Time, the pins and the host -/

theorem timebaseTick_rstLow (s : State) : (timebaseTick s).rstLow = s.rstLow := by
  unfold timebaseTick
  split <;> rfl

theorem setPins_rstLow (n : Service) (sf sd : Bool) (s : State) : (setPins n sf sd s).rstLow = s.rstLow := by
  simp only [setPins]
  split
  · exact rawChanged_rstLow ..
  · rfl

theorem conditionRunsOut_rstLow (n : Service) (s : State) : (conditionRunsOut n s).rstLow = s.rstLow := by
  unfold conditionRunsOut
  split
  · exact debounce_rstLow ..
  · rfl

theorem writePlanField_rstLow (f : PlanField) (v : Byte) (s : State) : (writePlanField f v s).rstLow = s.rstLow := by
  simp only [writePlanField]
  split
  · rfl
  · split <;> rfl

theorem runCommand_rstLow (c : Command) (s : State) : (runCommand c s).rstLow = s.rstLow := by
  cases c with
  | start =>
    simp only [runCommand, commandStart]
    split
    · rw [setResult_rstLow, startStation_rstLow]
    · rfl
  | leave =>
    simp only [runCommand, commandLeave]
    split
    · rw [setResult_rstLow, leaveStation_rstLow]
    · rfl
  | restart => rw [runCommand, commandRestart, setResult_rstLow, restartStation, post_rstLow]
  | force => exact operatorRequest_rstLow ..
  | lockout => exact operatorRequest_rstLow ..
  | clear => exact operatorRequest_rstLow ..
  | clearCounters => rw [runCommand, clearCounters, setResult_rstLow, withPeers_rstLow, withTx_rstLow, withRx_rstLow]

/-- No data byte and no transaction moves RST. -/
theorem rstLow_hostKept (b : Bool) : HostKept fun s => s.rstLow = b :=
  ⟨fun _ _ => id, fun _ _ _ => id, fun f v s => (writePlanField_rstLow f v s).trans,
    fun c s => (runCommand_rstLow c s).trans⟩

/-- A command that is no data byte does not move RST, unless it is HARD_RESET. -/
theorem exec_away_rstLow {i : Instr} {s t : State} (ha : hostAddress i = none) (hi : ∀ rst, i ≠ .hardReset rst)
    (he : exec i s = .next t) : t.rstLow = s.rstLow := by
  cases i
  case irqControlWrite r v => cases r <;> cases ha
  all_goals cases ha <;> cases he
  case hardReset rst => exact absurd rfl (hi rst)
  case timebaseTick => exact timebaseTick_rstLow s
  case rawConditionChange n sf sd => exact setPins_rstLow n sf sd s
  case conditionTimerRunsOut n => exact conditionRunsOut_rstLow n s
  case wtrTimerRunsOut n => exact (wtrRunsOut_step n s).rstLow
  case retryHoldRunsOut n => exact (retryRunsOut_step n s).rstLow
  case claimWindowEnd n => exact (windowRunsOut_step n s).rstLow
  case silenceTimerRunsOut p => exact peerTimerRunsOut_rstLow p s
  case listenTimerRunsOut => exact listenRunsOut_rstLow s
  case statusPeriodTimerRunsOut => exact statusRunsOut_rstLow s
  case frameReceived line => exact frameReceived_rstLow line s
  case codeError line => exact codeError_rstLow line s
  case attemptStart => exact attemptStart_rstLow s
  case attemptClean => exact attemptClean_rstLow s
  case attemptCollided line => exact attemptCollided_rstLow line s
  case attemptDeaf => exact attemptDeaf_rstLow s
  case backOffEnd line => exact backOffEnd_rstLow line s
  case lineIdle line => exact lineIdle_rstLow line s
  case transactionBegin => exact (rstLow_hostKept s.rstLow).beginTransaction rfl
  case addressByte v => exact (rstLow_hostKept s.rstLow).takeAddress v rfl
  case transactionEnd => rfl

/-- RST is moved by HARD_RESET alone. -/
theorem exec_rstLow {i : Instr} {s t : State} (hi : ∀ rst, i ≠ .hardReset rst) (he : exec i s = .next t) :
    t.rstLow = s.rstLow := by
  cases ha : hostAddress i with
  | some a => exact (rstLow_hostKept s.rstLow).exec_data ha rfl he
  | none => exact exec_away_rstLow ha hi he

/-! ## The part while RST is low (R117, R156) -/

/-- RST is low, and every block holds its hard-reset values. -/
structure State.AtReset (s : State) : Prop where
  low : s.rstLow = true
  held : resetBlocks s.station.ownId true s = s

theorem State.resetHeld_iff (s : State) : s.ResetHeld ↔ (s.rstLow = true → s.AtReset) :=
  ⟨fun h hl => ⟨hl, h hl⟩, fun h hl => (h hl).held⟩

theorem State.resetHeld_of_high {s : State} (h : s.rstLow = false) : s.ResetHeld := by
  intro hl
  rw [h] at hl
  cases hl

namespace State.AtReset
variable {s : State} (h : s.AtReset)
include h

theorem entry (n : Service) : s.entry n = resetEntry 0 := by rw [← h.held]; exact resetBlocks_entry ..

theorem peer (p : StationId) : s.peer p = resetPeer s.station.ownId p := by
  have hp := resetBlocks_peer s.station.ownId true s p
  rwa [h.held] at hp

theorem condition (n : Service) : s.condition n = resetCondition (s.condition n).sf (s.condition n).sd := by
  have hc := resetBlocks_condition s.station.ownId true s n
  rwa [h.held] at hc

theorem phase : s.station.phase = .config := by rw [← h.held]; rfl

theorem listenTimer : s.station.listenTimer = none := by rw [← h.held]; rfl

theorem statusTimer : s.station.statusTimer = none := by rw [← h.held]; rfl

theorem receiving : s.rx.receiving = false := by rw [← h.held]; rfl

theorem txState : s.tx.state = .ready := by rw [← h.held]; rfl

theorem host : s.host = resetHostPort := by rw [← h.held]; rfl

theorem txn : s.host.txn = .idle := by rw [h.host]; rfl

theorem drivenFlight : s.drivenFlight = none := by
  unfold State.drivenFlight
  rw [h.txState]
  rfl

end State.AtReset

/-- Outside a transaction HSCK is ignored (R147). -/
theorem dataByte_of_idle {a : HostAddress} {take : State → State} {s : State} (h : s.host.txn = .idle) :
    dataByte a take s = s := by
  unfold dataByte
  rw [h]

/-- The command of a data byte is one byte clocked at its address (R147). -/
theorem exec_eq_dataByte {i : Instr} {a : HostAddress} (hi : hostAddress i = some a) :
    ∃ take : State → State, ∀ s, exec i s = .next (dataByte a take s) := by
  cases i
  case irqControlWrite r v => cases r <;> cases hi <;> exact ⟨_, fun _ => rfl⟩
  all_goals cases hi <;> exact ⟨_, fun _ => rfl⟩

section
variable {s t : State} (h : s.AtReset)
include h

/-- While RST is low nothing but the pins acts (R117, R156; log entry 25). -/
theorem exec_away_atReset {i : Instr} (ha : hostAddress i = none) (hr : ∀ rst, i ≠ .hardReset rst)
    (hp : ∀ n sf sd, i ≠ .rawConditionChange n sf sd) (he : exec i s = .next t) : t = s := by
  cases i
  case irqControlWrite r v => cases r <;> cases ha
  all_goals cases ha <;> cases he
  case hardReset rst => exact absurd rfl (hr rst)
  case timebaseTick => exact if_pos h.low
  case rawConditionChange n sf sd => exact absurd rfl (hp n sf sd)
  case conditionTimerRunsOut n =>
    rw [conditionRunsOut, h.condition]
    rfl
  case wtrTimerRunsOut n =>
    rw [wtrRunsOut, h.entry]
    rfl
  case retryHoldRunsOut n =>
    rw [retryRunsOut, h.entry]
    rfl
  case claimWindowEnd n =>
    rw [windowRunsOut, h.entry]
    rfl
  case silenceTimerRunsOut p =>
    rw [peerTimerRunsOut, h.peer]
    rfl
  case listenTimerRunsOut =>
    rw [listenRunsOut, h.listenTimer]
    rfl
  case statusPeriodTimerRunsOut =>
    rw [statusRunsOut, h.statusTimer]
    rfl
  case frameReceived line => exact if_pos h.receiving
  case codeError line => exact if_pos h.receiving
  case attemptStart =>
    rw [attemptStart, h.txState]
    rfl
  case attemptClean => rw [attemptClean, h.drivenFlight]
  case attemptCollided line => rw [attemptCollided, h.drivenFlight]
  case attemptDeaf => rw [attemptDeaf, h.drivenFlight]
  case backOffEnd line =>
    rw [backOffEnd, h.txState]
    rfl
  case lineIdle line => exact if_pos (.inl h.receiving)
  case transactionBegin =>
    rw [beginTransaction, h.txn]
    exact if_pos h.low
  case addressByte v => rw [takeAddress, h.txn]
  case transactionEnd =>
    rw [endTransaction, h.host]
    exact (congrArg s.withHost h.host.symm).trans rfl

end

/-- SFn and SDn act while RST is low too: the raw condition follows them, and is the reset value for their levels (R75,
R117). -/
theorem setPins_atReset {s : State} (h : s.AtReset) (n : Service) (sf sd : Bool) : (setPins n sf sd s).AtReset := by
  have hquiet : setPins n sf sd s =
      putCondition n { s.condition n with sf := sf, sd := sd, raw := rawOf sf sd } s :=
    if_neg fun hc => hc.2 h.phase
  have hset : ({ s.condition n with sf := sf, sd := sd, raw := rawOf sf sd } : ServiceCondition) =
      resetCondition sf sd := by
    rw [h.condition n]
    rfl
  rw [hquiet, hset]
  refine ⟨h.low, ?_⟩
  generalize hu : putCondition n (resetCondition sf sd) s = u
  have hcond : (resetBlocks s.station.ownId true u).cond = place s.cond n (resetCondition sf sd) := by
    refine table_ext fun m => (resetBlocks_condition s.station.ownId true u m).trans ?_
    subst hu
    by_cases hm : m = n
    · subst hm
      rw [putCondition_condition_same, look_place_same]
      rfl
    · rw [putCondition_condition_ne _ _ hm, look_place_ne _ _ hm]
      exact (h.condition m).symm
  calc resetBlocks u.station.ownId true u
      = { resetBlocks s.station.ownId true s with cond := (resetBlocks s.station.ownId true u).cond } := by
        subst hu
        rfl
    _ = u := by
        rw [hcond, h.held, ← hu]
        rfl

/-- Hard reset with RST low brings the values that it keeps (R117). -/
theorem resetBlocks_atReset (s : State) : (resetBlocks s.station.ownId true s).AtReset := by
  refine ⟨rfl, ?_⟩
  have hpins := hardResetState_pins s.station.ownId
    (pins := tabulate fun n => (((resetBlocks s.station.ownId true s).condition n).sf,
      ((resetBlocks s.station.ownId true s).condition n).sd))
    (pins' := tabulate fun n => ((s.condition n).sf, (s.condition n).sd)) fun n => by
      rw [look_tabulate, look_tabulate, resetBlocks_condition]
      rfl
  calc resetBlocks s.station.ownId true (resetBlocks s.station.ownId true s)
      = { hardResetState s.station.ownId (tabulate fun n => ((s.condition n).sf, (s.condition n).sd)) with
          rstLow := true, pending := s.pending, freeCount := s.freeCount } := by
        rw [← hpins]
        rfl
    _ = resetBlocks s.station.ownId true s := rfl

/-- Every command keeps the blocks at their hard-reset values while RST is low (R117, R156). -/
theorem exec_resetHeld {i : Instr} {s t : State} (h : s.ResetHeld) (he : exec i s = .next t) : t.ResetHeld := by
  by_cases hr : ∃ rst, i = .hardReset rst
  · obtain ⟨rst, rfl⟩ := hr
    cases he
    cases rst with
    | low => exact fun _ => (resetBlocks_atReset s).held
    | high id => exact State.resetHeld_of_high rfl
  · have hrst : t.rstLow = s.rstLow := exec_rstLow (fun rst hi => hr ⟨rst, hi⟩) he
    rw [State.resetHeld_iff, hrst]
    intro hlow
    have hs := s.resetHeld_iff.1 h hlow
    by_cases hp : ∃ n sf sd, i = .rawConditionChange n sf sd
    · obtain ⟨n, sf, sd, rfl⟩ := hp
      cases he
      exact setPins_atReset hs n sf sd
    · cases ha : hostAddress i with
      | some a =>
        obtain ⟨take, htake⟩ := exec_eq_dataByte ha
        rw [htake, dataByte_of_idle hs.txn] at he
        cases he
        exact hs
      | none =>
        rw [exec_away_atReset hs ha (fun rst hi => hr ⟨rst, hi⟩) (fun n sf sd hi => hp ⟨n, sf, sd, hi⟩) he]
        exact hs

/-! ## The drives and the Host Port (R42, R153, R155) -/

/-- Every command is a step of the part: one case for each row of the opcode table. -/
theorem exec_part {i : Instr} {s t : State} (he : exec i s = .next t) : PartStep s t := by
  cases i <;> cases he
  case hardReset rst => exact hardReset_part rst s
  case timebaseTick => exact timebaseTick_part s
  case rawConditionChange n sf sd => exact setPins_part n sf sd s
  case conditionTimerRunsOut n => exact conditionRunsOut_part n s
  case wtrTimerRunsOut n => exact (wtrRunsOut_step n s).part
  case retryHoldRunsOut n => exact (retryRunsOut_step n s).part
  case claimWindowEnd n => exact (windowRunsOut_step n s).part
  case silenceTimerRunsOut p => exact peerTimerRunsOut_part p s
  case listenTimerRunsOut => exact listenRunsOut_part s
  case statusPeriodTimerRunsOut => exact statusRunsOut_part s
  case frameReceived line => exact frameReceived_part line s
  case codeError line => exact codeError_part line s
  case attemptStart => exact attemptStart_part s
  case attemptClean => exact attemptClean_part s
  case attemptCollided line => exact attemptCollided_part line s
  case attemptDeaf => exact attemptDeaf_part s
  case backOffEnd line => exact backOffEnd_part line s
  case start => exact takeCommand_part .start s
  case leave => exact takeCommand_part .leave s
  case restart => exact takeCommand_part .restart s
  case force => exact takeCommand_part .force s
  case lockout => exact takeCommand_part .lockout s
  case clear => exact takeCommand_part .clear s
  case clearCounters => exact takeCommand_part .clearCounters s
  case unknownCommandCode code => exact dataByte_part _ (writeCode_part code) s
  case planSelectWrite v => exact dataByte_part _ (writePlanSelect_part v) s
  case planFieldWrite f v => exact dataByte_part _ (writePlanField_part f v) s
  case serviceSnapshotSelect v => exact dataByte_part _ (selectService_part v) s
  case peerSnapshotSelect v => exact dataByte_part _ (selectPeer_part v) s
  case counterSnapshotSelect v => exact dataByte_part _ (selectCounter_part v) s
  case irqControlWrite r v => exact dataByte_part _ (writeIrqControl_part r v) s
  case eventPop => exact dataByte_part _ .refl s
  case registerWrite a v => exact registerWrite_part a v s
  case lineIdle line => exact lineIdle_part line s
  case transactionBegin => exact beginTransaction_part s
  case addressByte v => exact takeAddress_part v s
  case transactionEnd => exact endTransaction_part s

/-! ## The pins (R147, R155, R159, Table 11-11) -/

section
variable {s : State}

theorem drvPin_eq (h : s.DriveFollowsHeld) (n : Service) :
    s.drvPin n = if s.rstLow = false ∧ (s.entry n).state = .held then .high else .low := by
  simp only [State.drvPin, levelOf, h n, decide_eq_true_eq]
  cases s.rstLow with
  | true => simp
  | false => simp

theorem irqPin_eq (h : s.host.Sound) :
    s.irqPin =
      if s.rstLow = false ∧ s.host.irqEnable = true ∧ s.host.events ≠ [] then .low else .floating := by
  have hirq : s.host.irq = true ↔ s.host.irqEnable = true ∧ s.host.events ≠ [] := by
    rw [h.1]
    simp
  simp only [State.irqPin, hirq]

theorem levelOf_ne_floating (b : Bool) : levelOf b ≠ .floating := by cases b <;> simp [levelOf]

theorem hsdoPin_floating (h : s.rstLow = true ∨ s.host.txn = .idle) (k : Fin 8) : s.hsdoPin k = .floating := by
  simp only [State.hsdoPin]
  split
  · rfl
  · next hlow => rw [h.resolve_left hlow]

theorem hsdoPin_driven (h : s.rstLow = false) (ht : s.host.txn ≠ .idle) (k : Fin 8) : s.hsdoPin k ≠ .floating := by
  simp only [State.hsdoPin]
  rw [if_neg (by simp [h])]
  split
  · next hidle => exact absurd hidle ht
  · exact levelOf_ne_floating _
  · exact levelOf_ne_floating _
  · split
    · exact levelOf_ne_floating _
    · exact levelOf_ne_floating _

/-- A fetched byte goes out most significant bit first (R147, R158). -/
theorem hsdoPin_fetched {cur : HostAddress} {b : Byte} (h : s.rstLow = false) (ht : s.host.txn = .data .read cur)
    (hf : s.host.fetched = some b) (k : Fin 8) :
    s.hsdoPin k = if b.getLsbD (7 - k.val) = true then .high else .low := by
  simp only [State.hsdoPin, ht, hf]
  rw [if_neg (by simp [h])]
  rfl

theorem busDrive_undriven (h : s.rstLow = true ∨ s.tx.state ≠ .driving) (k : Nat) : s.busDrive k = .undriven := by
  unfold State.busDrive
  split
  · rfl
  · next hlow => rw [State.drivenFlight, if_neg (h.resolve_left hlow)]

theorem busDrive_driven {f : Flight} (h : s.rstLow = false) (hd : s.tx.state = .driving) (hf : s.tx.flight = some f)
    (k : Nat) :
    s.busDrive k =
      match f.driven[k]? with
      | some (.pulse .positive) => .bpAboveBn
      | some (.pulse .negative) => .bnAboveBp
      | some .empty => .neither
      | none => .undriven := by
  unfold State.busDrive
  rw [if_neg (by simp [h]), State.drivenFlight, if_pos hd, hf]
  dsimp only
  rcases f.driven[k]? with _ | _ | _ | _ <;> rfl

end

/-- The receiver's threshold is 400 mV of either sign (Table 11-12). -/
theorem symbolOfDifference_cases (mV : Int) :
    (400 < mV → symbolOfDifference mV = .pulse .positive) ∧ (mV < -400 → symbolOfDifference mV = .pulse .negative) ∧
      (-400 ≤ mV → mV ≤ 400 → symbolOfDifference mV = .empty) := by
  unfold symbolOfDifference Config.receiveThreshold
  refine ⟨fun h => if_pos h, fun h => ?_, fun hl hu => ?_⟩
  · rw [if_neg (by omega), if_pos h]
  · rw [if_neg (by omega), if_neg (by omega)]

/-- CLK is divided by 16000 for the Timebase and by 8 for the bus (R159). -/
theorem clk_division (k : Nat) : ticksIn (16000 * k) = k ∧ bitTimesIn (8 * k) = k :=
  ⟨Nat.mul_div_cancel_left k (by decide), Nat.mul_div_cancel_left k (by decide)⟩

/-- The drives follow the table, the Host Port is sound, and RST low holds the reset values (R42, R117, R153, R155). -/
def State.OutputsSound (s : State) : Prop := s.DriveFollowsHeld ∧ s.host.Sound ∧ s.ResetHeld

theorem exec_outputsSound {i : Instr} {s t : State} (h : s.OutputsSound) (he : exec i s = .next t) :
    t.OutputsSound := by
  obtain ⟨hdrive, hsound, hreset⟩ := h
  have hpart := exec_part he
  exact ⟨hpart.drives hdrive, hpart.sound hsound, exec_resetHeld hreset he⟩

/-- The queue of waiting commands is no part of the chip (log entry 25). -/
theorem withPending_resetHeld {s : State} (cs : List Instr) (h : s.ResetHeld) : (s.withPending cs).ResetHeld :=
  fun hl => congrArg (State.withPending · cs) (h hl)

/-- Settles O3: every command keeps the drives, the Host Port and the reset values, and the pins are read off the state
that it leaves. -/
theorem stepKeepsOutputs : Obligations.StepKeepsOutputs := by
  refine ⟨fun s t hdrive hsound hreset he => ?_, symbolOfDifference_cases, clk_division⟩
  obtain ⟨hdrive', hsound', hreset'⟩ : t.OutputsSound := step_of_exec (good := State.OutputsSound)
    (fun _ cs ⟨hd, hs, hr⟩ => ⟨hd, hs, withPending_resetHeld cs hr⟩) (fun _ => id) (fun _ _ _ => exec_outputsSound)
    ⟨hdrive, hsound, hreset⟩ he
  exact ⟨hdrive', hsound', hreset', drvPin_eq hdrive', irqPin_eq hsound', hsdoPin_floating, hsdoPin_driven,
    fun _ _ => hsdoPin_fetched, busDrive_undriven, fun _ => busDrive_driven⟩

end Sys2Proof.Machine

/-! A HELD entry that a peer lists (R65 to R68): to which side a dual hold falls, by epoch and then by tuple, and what either
outcome leaves. -/

namespace Sys2Proof.Machine

section
variable {n : Service} {p : StationId} {s : State} {f : Epoch}

/-! ## Which side a dual hold falls to (R65, R66) -/

/-- A HELD entry meets the listing of a LIVE peer alone (R68, Table 4-1). -/
theorem reconcile_held {b : StatusBody} (hr : (s.entry n).record = none) (hs : (s.entry n).state = .held)
    (ho : (s.entry n).owner ≠ some p) (hl : b.listing n = some f) :
    reconcile n p b s =
      if s.isLive p = true then settleDualHold n p f ((look b.services n).tuple p) s else s := by
  simp only [reconcile, hr, if_neg ho, hl, hs]

section
variable {e : Epoch} {x : ClaimTuple} (he : (s.entry n).epoch = some e)
include he

theorem settleDualHold_lost
    (h : compareEpochs (some f) (some e) = .newer ∨ (f = e ∧ x.better (s.ownTuple n) = true)) :
    settleDualHold n p f x s = supersede n p f s := by
  rcases h with hnewer | ⟨rfl, hbetter⟩
  · simp only [settleDualHold, he, hnewer]
  · simp only [settleDualHold, he, compareEpochs_self, if_pos hbetter]

theorem settleDualHold_won
    (h : compareEpochs (some f) (some e) = .older ∨ (f = e ∧ x.better (s.ownTuple n) = false)) :
    settleDualHold n p f x s = winDualHold n p (if f = e then .tuple else .epoch) s := by
  rcases h with holder | ⟨rfl, hworse⟩
  · have hne : f ≠ e := by
      rintro rfl
      rw [compareEpochs_self] at holder
      cases holder
    simp only [settleDualHold, he, holder, if_neg hne]
  · simp only [settleDualHold, he, compareEpochs_self, hworse, Bool.false_eq_true, if_false, if_true]

end

/-! ## A dual hold lost (R65) -/

theorem supersede_entry (hs : (s.entry n).state = .held) :
    (supersede n p f s).entry n =
      { s.entry n with
        state := .remote, owner := some p, epoch := some f, retryHold := some 100, changed := s.timebase } := by
  rw [supersede, leaveHeld, post_entry, putEntry_entry_same, stamp_of_changed (.inl (by simp [hs]))]
  rfl

theorem supersede_drv : look (supersede n p f s).oc.drv n = false := putEntry_drv_same ..

theorem supersede_events (h : s.CanRecord 1) :
    (supersede n p f s).host.events =
      s.host.events ++ [s.event .svcDropped (some n) (some p) (some f) (some (.dropped .superseded))] :=
  State.CanRecord.post_events (s := putEntry ..) (k := 0) _ _ _ _ _ (h.of_host rfl)

/-! ## A dual hold won (R66) -/

theorem winDualHold_oc (g : DualGround) : (winDualHold n p g s).oc = s.oc := by
  rw [winDualHold, post_oc, requestStatus, request_oc]

theorem winDualHold_statusWaits (ha : s.station.phase = .active) (g : DualGround) :
    (winDualHold n p g s).StatusWaits :=
  requestStatus_statusWaits (by rw [ha]; rfl)

theorem winDualHold_events (h : s.CanRecord 1) (g : DualGround) :
    (winDualHold n p g s).host.events =
      s.host.events ++ [s.event .dualHold (some n) (some p) (s.entry n).epoch (some (.dualHold g))] := by
  have hhost : (requestStatus s).host = s.host := request_host ..
  rw [winDualHold, State.CanRecord.post_events (k := 0) _ _ _ _ _ (h.of_host hhost), hhost]
  simp only [State.event, (requestStatus_step s).timebase]

end

/-- Settles O45: the listing of a LIVE peer leads to supersession or to a won dual hold, as epoch and tuple say, and each
of the two writes what it says. -/
theorem dualHoldIsSettled : Obligations.DualHoldIsSettled := by
  intro n p b s e f ha hs hr ho hp he hl
  have howner : (s.entry n).owner ≠ some p := by
    rw [ho]
    exact fun h => hp (Option.some.inj h).symm
  have hheld := reconcile_held hr hs howner hl
  refine ⟨fun hdead => by rw [hheld, if_neg (by simp [hdead])], fun hlive => ?_⟩
  rw [if_pos hlive] at hheld
  have hstep := reconcile_entryStep n p b s
  refine ⟨hstep.others, hstep.owner.onlyOwnership, fun hlost => ?_, fun hwon => ?_⟩
  · rw [hheld, settleDualHold_lost he hlost]
    exact ⟨supersede_entry hs, supersede_drv, rfl, supersede_events⟩
  · rw [hheld, settleDualHold_won he hwon, ← he]
    exact ⟨winDualHold_oc _, winDualHold_statusWaits ha _, fun hrec => winDualHold_events hrec _⟩

end Sys2Proof.Machine

/-! The Peer Table entry of a peer after its frame (R88, R91 to R94), step by step. -/

namespace Sys2Proof.Machine

/-! ## The entry at each step of R88 -/

/-- The entry at the end of the sequence and silence steps (R88, steps 1 to 3). -/
def PeerEntry.taken (e : PeerEntry) (f : Frame) : PeerEntry :=
  (PeerEntry.takeSeq { e with checksumSeen := some f.checksum } f.seq).restartSilence

/-- The entry after the state step (R92, R93). -/
def PeerEntry.stepped (e : PeerEntry) (body : FrameBody) (follows : Bool) : PeerEntry :=
  match e.state with
  | .arriving =>
    if e.reachesLive body follows then { e with state := .live, inOrder := 2 }
    else { e with inOrder := e.countInOrder body.isStatus follows }
  | .live => e
  | .self => e
  | .absent => { e with state := .arriving, inOrder := 0, silence := some Config.silence }
  | .silent => { e with state := .arriving, inOrder := 0, silence := some Config.silence }
  | .incompatible => { e with state := .arriving, inOrder := 0, silence := some Config.silence }

/-- The entry after the data step (R88, step 5). -/
def PeerEntry.publishing (e : PeerEntry) : FrameBody → PeerEntry
  | .status b => { e with data := some b }
  | .claim _ => e
  | .release _ => e
  | .object _ => e

/-- The entry of a peer that has departed (R94). -/
def PeerEntry.departed (e : PeerEntry) : PeerEntry := { e with state := .absent, silence := none, inOrder := 0 }

/-- The entry before the departure step, where a frame that is no duplicate leaves it. -/
def PeerEntry.delivered (e : PeerEntry) (f : Frame) : PeerEntry :=
  ((e.taken f).stepped f.body (e.follows f.seq)).publishing f.body

section
variable {p : StationId} {s : State}

theorem putPeer_putPeer (p : StationId) (x y : PeerEntry) (s : State) :
    putPeer p x (putPeer p y s) = putPeer p x s := by
  simp only [putPeer, State.withPeers, place, Vector.set_set]

/-- A frame with the plan's checksum that is no duplicate goes on to the state step (R88 to R91). -/
theorem takeFrame_accepted {f : Frame} (hc : f.checksum = s.station.checksum)
    (hq : (s.peer f.sender).lastSeq ≠ some f.seq) :
    takeFrame f s =
      takeData f.sender f.body ((s.peer f.sender).follows f.seq)
        (putPeer f.sender ((s.peer f.sender).taken f) s) := by
  simp only [takeFrame, putPeer_peer_same, putPeer_putPeer]
  rw [if_neg (not_not_intro hc), if_neg hq]
  rfl

theorem refreshIsolated_peer (j : Option StationId) (s : State) (q : StationId) :
    (refreshIsolated j s).peer q = s.peer q :=
  (refreshIsolated_step j s).peer q

theorem arrive_peer (body : FrameBody) :
    (arrive p body s).peer p = { s.peer p with state := .arriving, inOrder := 0, silence := some Config.silence } := by
  simp only [arrive]
  split
  · rw [(requestStatus_step _).peer, putPeer_peer_same]
  · rw [putPeer_peer_same]

theorem becomeLive_peer : (becomeLive p s).peer p = { s.peer p with state := .live, inOrder := 2 } := by
  rw [becomeLive, refreshIsolated_peer, (post_step ..).peer, putPeer_peer_same]

theorem stateStep_peer (body : FrameBody) (follows : Bool) :
    (stateStep p body follows s).peer p = (s.peer p).stepped body follows := by
  cases hs : (s.peer p).state with
  | arriving =>
    simp only [stateStep, PeerEntry.stepped, hs]
    split
    · rw [becomeLive_peer]
    · exact putPeer_peer_same ..
  | live => simp only [stateStep, PeerEntry.stepped, hs]
  | self => simp only [stateStep, PeerEntry.stepped, hs]
  | absent => simp only [stateStep, PeerEntry.stepped, hs, arrive_peer]
  | silent => simp only [stateStep, PeerEntry.stepped, hs, arrive_peer]
  | incompatible => simp only [stateStep, PeerEntry.stepped, hs, arrive_peer]

theorem replaceData_peer (body : FrameBody) : (replaceData p body s).peer p = (s.peer p).publishing body := by
  cases body with
  | status b => exact putPeer_peer_same ..
  | claim c => rfl
  | release xs => rfl
  | object xs => rfl

theorem reportChange_step (p : StationId) (changed flag : Bool) (s : State) :
    OwnerStep s (reportChange p changed flag s) := by
  unfold reportChange
  split
  · exact (reportPeerState_step ..).trans (reportFlag_step ..)
  · exact .refl s

/-- The state before the departure step of R88. -/
def delivery (p : StationId) (body : FrameBody) (follows : Bool) (s : State) : State :=
  deliver p body (frameMarks ((stateStep p body follows s).peer p).data body)
    (reportChange p ((s.peer p).stateChanges body follows) s.peers.isolated
      (replaceData p body (stateStep p body follows s)))

theorem takeData_eq (p : StationId) (body : FrameBody) (follows : Bool) (s : State) :
    takeData p body follows s = departIfLeaving p body (delivery p body follows s) := rfl

theorem delivery_step (p : StationId) (body : FrameBody) (follows : Bool) (s : State) :
    OwnerStep (replaceData p body (stateStep p body follows s)) (delivery p body follows s) :=
  (reportChange_step ..).trans (deliver_step ..)

theorem delivery_peer (body : FrameBody) (follows : Bool) :
    (delivery p body follows s).peer p = ((s.peer p).stepped body follows).publishing body := by
  rw [(delivery_step ..).peer, replaceData_peer, stateStep_peer]

theorem depart_peer : (depart p s).peer p = (s.peer p).departed := by
  rw [depart, (reportFlag_step ..).peer, (reportDeparture_step ..).peer, refreshIsolated_peer, (post_step ..).peer,
    putPeer_peer_same]
  rfl

/-- The peer's own entry after its frame. -/
theorem takeFrame_peer {f : Frame} (hc : f.checksum = s.station.checksum)
    (hq : (s.peer f.sender).lastSeq ≠ some f.seq) :
    (takeFrame f s).peer f.sender =
      if f.body.isLeaving = true then ((s.peer f.sender).delivered f).departed
      else (s.peer f.sender).delivered f := by
  rw [takeFrame_accepted hc hq, takeData_eq, departIfLeaving]
  split
  · rw [depart_peer, delivery_peer, putPeer_peer_same]
    rfl
  · rw [delivery_peer, putPeer_peer_same]
    rfl

end

/-! ## What the steps write -/

section
variable {e : PeerEntry} {f : Frame}

@[simp] theorem taken_state : (e.taken f).state = e.state := restartSilence_state _

@[simp] theorem taken_inOrder : (e.taken f).inOrder = e.inOrder := by
  simp only [PeerEntry.taken, PeerEntry.restartSilence]
  split <;> rfl

@[simp] theorem taken_data : (e.taken f).data = e.data := by
  simp only [PeerEntry.taken, PeerEntry.restartSilence]
  split <;> rfl

/-- The silence timer of a peer that is heard starts anew (R91). -/
theorem taken_silence (h : e.state = .arriving ∨ e.state = .live) : (e.taken f).silence = some 20 := by
  rcases h with h | h <;> simp only [PeerEntry.taken, PeerEntry.restartSilence, PeerEntry.takeSeq, h] <;> rfl

@[simp] theorem stepped_data (body : FrameBody) (follows : Bool) : (e.stepped body follows).data = e.data := by
  unfold PeerEntry.stepped
  split
  · split <;> rfl
  all_goals rfl

@[simp] theorem publishing_state (body : FrameBody) : (e.publishing body).state = e.state := by cases body <;> rfl

@[simp] theorem publishing_inOrder (body : FrameBody) : (e.publishing body).inOrder = e.inOrder := by cases body <;> rfl

@[simp] theorem publishing_silence (body : FrameBody) : (e.publishing body).silence = e.silence := by cases body <;> rfl

/-- A STATUS alone replaces the published data (R88, step 5). -/
theorem delivered_data :
    (∀ b, f.body = .status b → (e.delivered f).data = some b) ∧
      (f.body.isStatus = false → (e.delivered f).data = e.data) := by
  have hkept := (stepped_data (e := e.taken f) f.body (e.follows f.seq)).trans taken_data
  unfold PeerEntry.delivered
  refine ⟨fun b hb => by rw [hb]; rfl, fun hb => ?_⟩
  generalize f.body = body at hb hkept ⊢
  cases body with
  | status b => cases hb
  | claim c => exact hkept
  | release xs => exact hkept
  | object xs => exact hkept

/-- A LIVE peer stays LIVE (R93). -/
theorem delivered_of_live (h : e.state = .live) :
    (e.delivered f).state = .live ∧ (e.delivered f).inOrder = e.inOrder ∧ (e.delivered f).silence = some 20 := by
  simp only [PeerEntry.delivered, PeerEntry.stepped, publishing_state, publishing_inOrder, publishing_silence, taken_state,
    h, taken_inOrder, taken_silence (.inr h), and_self]

/-- A peer that was unheard, SILENT or INCOMPATIBLE arrives (R92). -/
theorem delivered_of_unheard (hl : e.state ≠ .live) (ha : e.state ≠ .arriving) (hs : e.state ≠ .self) :
    (e.delivered f).state = .arriving ∧ (e.delivered f).inOrder = 0 ∧ (e.delivered f).silence = some 20 := by
  simp only [PeerEntry.delivered, PeerEntry.stepped, publishing_state, publishing_inOrder, publishing_silence, taken_state]
  split
  · next h => exact absurd h ha
  · next h => exact absurd h hl
  · next h => exact absurd h hs
  all_goals exact ⟨rfl, rfl, rfl⟩

theorem taken_countInOrder (isStatus follows : Bool) :
    (e.taken f).countInOrder isStatus follows = e.countInOrder isStatus follows := by
  unfold PeerEntry.countInOrder
  rw [taken_inOrder]

theorem stepped_of_arriving {body : FrameBody} {follows : Bool} (h : e.state = .arriving) :
    e.stepped body follows =
      if e.reachesLive body follows then { e with state := .live, inOrder := 2 }
      else { e with inOrder := e.countInOrder body.isStatus follows } := by
  simp only [PeerEntry.stepped, h]

theorem delivered_silence_of_arriving (h : e.state = .arriving) : (e.delivered f).silence = some 20 := by
  rw [PeerEntry.delivered, publishing_silence, stepped_of_arriving (taken_state.trans h)]
  split
  · exact taken_silence (.inl h)
  · exact taken_silence (.inl h)

/-- Every frame but a LEAVING STATUS leaves the silence timer at 20 ms (R91, R92). -/
theorem delivered_silence (hs : e.state ≠ .self) : (e.delivered f).silence = some 20 := by
  by_cases hl : e.state = .live
  · exact (delivered_of_live hl).2.2
  by_cases ha : e.state = .arriving
  · exact delivered_silence_of_arriving ha
  · exact (delivered_of_unheard hl ha hs).2.2

/-- The second STATUS in order, not a LEAVING one, makes an ARRIVING peer LIVE (R93). -/
theorem delivered_reaches (h : e.state = .arriving) (hleave : f.body.isLeaving = false)
    (hcount : 2 ≤ e.countInOrder f.body.isStatus (e.follows f.seq)) :
    (e.delivered f).state = .live ∧ (e.delivered f).inOrder = 2 := by
  have hlive : (e.taken f).reachesLive f.body (e.follows f.seq) = true := by
    simp only [PeerEntry.reachesLive, taken_countInOrder, hleave, decide_eq_true hcount, Bool.not_false, Bool.and_self]
  simp only [PeerEntry.delivered, stepped_of_arriving (taken_state.trans h), if_pos hlive, publishing_state,
    publishing_inOrder, and_self]

/-- Any other frame moves the in-order count of an ARRIVING peer (R93). -/
theorem delivered_counts (h : e.state = .arriving)
    (hcount : e.countInOrder f.body.isStatus (e.follows f.seq) < 2) :
    (e.delivered f).state = .arriving ∧
      (e.delivered f).inOrder = e.countInOrder f.body.isStatus (e.follows f.seq) := by
  have hnot : ¬(e.taken f).reachesLive f.body (e.follows f.seq) = true := by
    simp only [PeerEntry.reachesLive, taken_countInOrder, decide_eq_false (Nat.not_le.2 hcount), Bool.false_and,
      Bool.false_eq_true, not_false_iff]
  simp only [PeerEntry.delivered, stepped_of_arriving (taken_state.trans h), if_neg hnot, publishing_state,
    publishing_inOrder, taken_state, h, taken_countInOrder, and_self]

/-- The sequence that directly follows the last one (R93). -/
theorem follows_eq {last : Byte} (hl : e.lastSeq = some last) (q : Byte) : e.follows q = decide (q = last + 1) := by
  simp only [PeerEntry.follows, hl]

end

end Sys2Proof.Machine

/-! How many events the taking of a STATUS posts, and that PEER_LIVE is none of them but at the state step (R8, R65, R66, R93,
R98, R153). -/

namespace Sys2Proof.Machine

/-! ## Events posted between two states -/

/-- The PEER_LIVE records of the Event Queue. -/
def State.peerLives (s : State) : List EventRecord := s.host.events.filter fun x => decide (x.kind = .peerLive)

/-- From `s` to `t` at most `k` events are posted, none of them PEER_LIVE: records are appended alone, at most `k` of them,
and no PEER_LIVE record among them. -/
structure State.Posts (k : Nat) (s t : State) : Prop where
  grow : s.host.events <+: t.host.events
  room : ∀ j, s.CanRecord (j + k) → t.CanRecord j
  peerLives : t.peerLives = s.peerLives

namespace State.Posts
variable {s t u : State} {j k : Nat}

theorem of_host (h : t.host = s.host) : s.Posts 0 t :=
  ⟨by rw [h], fun _ hr => hr.of_host h, by rw [State.peerLives, h]; rfl⟩

protected theorem trans (h : s.Posts j t) (m : t.Posts k u) : s.Posts (j + k) u :=
  ⟨h.grow.trans m.grow, fun i hr => m.room i (h.room _ (by rwa [Nat.add_assoc, Nat.add_comm k])),
    m.peerLives.trans h.peerLives⟩

theorem le (h : s.Posts j t) (hk : j ≤ k) : s.Posts k t :=
  ⟨h.grow, fun i hr => h.room i (hr.le (by omega)), h.peerLives⟩

theorem none (h : t.host = s.host) : s.Posts k t := (of_host h).le (Nat.zero_le k)

theorem quiet_after (h : s.Posts k t) (hu : u.host = t.host) : s.Posts k u := h.trans (of_host hu)

theorem quiet_before (ht : t.host = s.host) (h : t.Posts k u) : s.Posts k u :=
  ((of_host ht).trans h).le (Nat.zero_add k).le

end State.Posts

theorem post_posts {kind : EventKind} (hk : kind ≠ .peerLive) (n : Option Service) (p : Option StationId)
    (e : Option Epoch) (d : Option Detail) (s : State) : s.Posts 1 (post kind n p e d s) where
  grow := post_events_grow ..
  room := fun _ h => h.post ..
  peerLives := by
    simp only [State.peerLives, post, withHost_host]
    rcases HostPort.post_cases s.host _ with ⟨-, h⟩ | ⟨-, -, h⟩ | ⟨-, -, h⟩
    · rw [h]
    · rw [h]
      simp [HostPort.refreshIrq, hk]
    · rw [h]

/-- An operation on each service posts sixteen times what one of its parts may post. -/
theorem forEach_posts {f : Fin 16 → State → State} {k : Nat} (hf : ∀ n (s : State), s.Posts k (f n s)) (s : State) :
    s.Posts (16 * k) (forEach f s) := by
  have hlist : ∀ (ns : List (Fin 16)) (t : State), State.Posts (ns.length * k) t (ns.foldl (fun s n => f n s) t) := by
    intro ns
    induction ns with
    | nil => exact fun t => State.Posts.none rfl
    | cons n ns ih =>
      exact fun t => ((hf n t).trans (ih _)).le (by rw [List.length_cons, Nat.succ_mul, Nat.add_comm])
  have hlength : allSixteen.length = 16 := List.length_finRange
  exact hlength ▸ hlist allSixteen s

/-! ## What the operations on a STATUS post -/

theorem evaluate_posts (n : Service) (s : State) : s.Posts 0 (evaluate n s) := .of_host (evaluate_host n s)

theorem evaluateAll_posts (s : State) : s.Posts 0 (evaluateAll s) := forEach_posts (k := 0) evaluate_posts s

theorem changeEntry_posts (n : Service) (e : ServiceEntry) (s : State) : s.Posts 1 (changeEntry n e s) := by
  simp only [changeEntry]
  split
  · exact .quiet_before (t := putEntry n e s) rfl (post_posts (by decide) ..)
  · exact .none rfl

/-- Settling an entry keeps its owner and its epoch, and so posts nothing (R8). -/
theorem settleForPeer_host (p : StationId) (n : Service) (s : State) : (settleForPeer p n s).host = s.host := by
  simp only [settleForPeer]
  split
  · split
    · rw [dropRecord_eq]
      rfl
    · rfl
  · split
    · rw [changeEntry_of_same (e := { s.entry n with state := s.settledState (s.entry n).owner }) rfl rfl]
      rfl
    · rfl

theorem reportPeerState_posts (p : StationId) (s : State) : s.Posts 0 (reportPeerState p s) :=
  (forEach_posts (k := 0) (fun _ _ => .of_host (settleForPeer_host ..)) s).trans (evaluateAll_posts _)

theorem departEntry_posts (p : StationId) (n : Service) (s : State) : s.Posts 1 (departEntry p n s) := by
  simp only [departEntry]
  split
  · exact (changeEntry_posts ..).quiet_after (settleForPeer_host ..)
  · exact .none (settleForPeer_host ..)

theorem reportDeparture_posts (p : StationId) (s : State) : s.Posts 16 (reportDeparture p s) :=
  (forEach_posts (k := 1) (departEntry_posts p) s).trans (evaluateAll_posts _)

theorem reportFlag_posts (b : Bool) (s : State) : s.Posts 0 (reportFlag b s) := by
  unfold reportFlag
  split
  · exact .of_host rfl
  · exact evaluateAll_posts s

theorem refreshIsolated_posts (j : Option StationId) (s : State) : s.Posts 1 (refreshIsolated j s) := by
  have hpost : ∀ {k : EventKind}, k ≠ .peerLive → ∀ (q : Option StationId) (d : Option Detail),
      s.Posts 1 (post k none q none d s.refreshed) := fun hk q d =>
    .quiet_before (t := s.refreshed) rfl (post_posts hk none q none d _)
  simp only [refreshIsolated]
  split
  · exact .none rfl
  · split
    · exact hpost (by decide) ..
    · split
      · exact hpost (by decide) ..
      · exact hpost (by decide) ..

theorem settleDualHold_posts (n : Service) (p : StationId) (f : Epoch) (x : ClaimTuple) (s : State) :
    s.Posts 1 (settleDualHold n p f x s) := by
  have hlost : s.Posts 1 (supersede n p f s) := 
    .quiet_before (t := putEntry n _ s) rfl (post_posts (by decide) ..)
  have hwon : ∀ g, s.Posts 1 (winDualHold n p g s) := fun g =>
    .quiet_before (t := requestStatus s) (request_host ..) (post_posts (by decide) ..)
  unfold settleDualHold
  split
  · exact hlost
  · exact hwon _
  · split
    · exact hlost
    · exact hwon _

theorem reconcileRemote_posts (n : Service) (p q : StationId) (f : Epoch) (x : ClaimTuple) (s : State) :
    s.Posts 1 (reconcileRemote n p q f x s) := by
  have hsame : s.Posts 1 s := .none rfl
  unfold reconcileRemote
  split
  · exact changeEntry_posts ..
  · exact hsame
  · split
    · split
      · exact changeEntry_posts ..
      · exact hsame
    · exact hsame

/-- Each row of Table 4-1 posts one event at most. -/
theorem reconcile_posts (n : Service) (p : StationId) (b : StatusBody) (s : State) :
    s.Posts 1 (reconcile n p b s) := by
  have hsame : s.Posts 1 s := .none rfl
  simp only [reconcile]
  split
  · exact .none rfl
  · split
    · split
      · split
        · exact hsame
        · exact changeEntry_posts ..
      · exact changeEntry_posts ..
    · split
      · exact hsame
      · split
        · split
          · exact settleDualHold_posts ..
          · exact hsame
        · exact changeEntry_posts ..
        · exact changeEntry_posts ..
        · split
          · exact reconcileRemote_posts ..
          · exact hsame
        · exact hsame
        · exact hsame

theorem statusService_posts (p : StationId) (b : StatusBody) (marks : Table Bool) (n : Service) (s : State) :
    s.Posts 1 (statusService p b marks n s) := by
  have hrec : s.Posts 1 (reconcileDefined n p b s) := by
    unfold reconcileDefined
    split
    · exact reconcile_posts ..
    · exact .none rfl
  simp only [statusService]
  split
  · exact hrec.trans (evaluate_posts ..)
  · exact hrec

theorem deliver_status_posts (p : StationId) (b : StatusBody) (marks : Table Bool) (s : State) :
    s.Posts 16 (deliver p (.status b) marks s) :=
  forEach_posts (k := 1) (statusService_posts p b marks) s

/-! ## A STATUS taken, step by step -/

theorem replaceData_host (p : StationId) (body : FrameBody) (s : State) : (replaceData p body s).host = s.host := by
  cases body <;> rfl

theorem reportChange_posts (p : StationId) (changed flag : Bool) (s : State) :
    s.Posts 0 (reportChange p changed flag s) := by
  unfold reportChange
  split
  · exact (reportPeerState_posts p s).trans (reportFlag_posts ..)
  · exact .of_host rfl

/-- After the state step a STATUS posts what its sixteen services post, before a departure. -/
theorem delivery_posts (p : StationId) (b : StatusBody) (follows : Bool) (s : State) :
    (stateStep p (.status b) follows s).Posts 16 (delivery p (.status b) follows s) :=
  .quiet_before (replaceData_host ..) ((reportChange_posts ..).trans (deliver_status_posts ..))

section
variable {p : StationId} {s : State}

/-- PEER_LEFT, posted with the peer ABSENT (R94). -/
def leftPosted (p : StationId) (s : State) : State :=
  post .peerLeft none (some p) none none (putPeer p (s.peer p).departed s)

theorem depart_eq (p : StationId) (s : State) :
    depart p s = reportFlag s.peers.isolated (reportDeparture p (refreshIsolated none (leftPosted p s))) := rfl

theorem depart_posts_after (p : StationId) (s : State) : (leftPosted p s).Posts 17 (depart p s) := by
  rw [depart_eq]
  exact ((refreshIsolated_posts ..).trans (reportDeparture_posts ..)).trans (reportFlag_posts ..)

theorem depart_posts (p : StationId) (s : State) : s.Posts 18 (depart p s) :=
  .quiet_before (t := putPeer p (s.peer p).departed s) rfl ((post_posts (by decide) ..).trans (depart_posts_after p s))

theorem departIfLeaving_posts (p : StationId) (body : FrameBody) (s : State) :
    s.Posts 18 (departIfLeaving p body s) := by
  unfold departIfLeaving
  split
  · exact depart_posts p s
  · exact .none rfl

theorem takeData_posts (p : StationId) (b : StatusBody) (follows : Bool) (s : State) :
    (stateStep p (.status b) follows s).Posts 34 (takeData p (.status b) follows s) :=
  (delivery_posts ..).trans (departIfLeaving_posts ..)

/-- PEER_LEFT finds its place in the Event Queue (R94, R153). -/
theorem depart_peerLeft (h : s.CanRecord 1) : s.event .peerLeft none (some p) none none ∈ (depart p s).host.events := by
  refine (depart_posts_after p s).grow.mem ?_
  rw [leftPosted, State.CanRecord.post_events (s := putPeer ..) (k := 0) _ _ _ _ _ (h.of_host rfl)]
  exact List.mem_append_right _ (List.mem_singleton.2 rfl)

theorem arrive_host (body : FrameBody) : (arrive p body s).host = s.host := by
  simp only [arrive]
  split
  · exact request_host ..
  · rfl

/-- A LEAVING STATUS makes no peer LIVE (R94; log entry 14): the state step posts nothing. -/
theorem stateStep_host_of_leaving {body : FrameBody} (h : body.isLeaving = true) (follows : Bool) :
    (stateStep p body follows s).host = s.host := by
  simp only [stateStep]
  split
  · rw [if_neg (by simp [PeerEntry.reachesLive, h])]
    rfl
  · rfl
  · rfl
  · exact arrive_host body
  · exact arrive_host body
  · exact arrive_host body

/-- PEER_LIVE, posted with the peer LIVE (R93). -/
def livePosted (p : StationId) (s : State) : State :=
  post .peerLive none (some p) none none (putPeer p { s.peer p with state := .live, inOrder := 2 } s)

theorem becomeLive_eq (p : StationId) (s : State) : becomeLive p s = refreshIsolated (some p) (livePosted p s) := rfl

/-- A peer that becomes LIVE is posted first (R93). -/
theorem becomeLive_posted (h : s.CanRecord 1) :
    s.host.events ++ [s.event .peerLive none (some p) none none] <+: (becomeLive p s).host.events := by
  have hpost : (livePosted p s).host.events = s.host.events ++ [s.event .peerLive none (some p) none none] :=
    State.CanRecord.post_events (s := putPeer ..) (k := 0) _ _ _ _ _ (h.of_host rfl)
  rw [becomeLive_eq, ← hpost]
  exact (refreshIsolated_posts ..).grow

theorem stateStep_of_reaches {body : FrameBody} {follows : Bool} (hs : (s.peer p).state = .arriving)
    (hr : (s.peer p).reachesLive body follows = true) : stateStep p body follows s = becomeLive p s := by
  simp only [stateStep, hs, if_pos hr]

end

end Sys2Proof.Machine

/-! The Service Table at the departure of a peer (R70, R94): what a LEAVING STATUS with an empty held list leaves at an entry,
and the arrival, LIVE and departure of a peer settled. -/

namespace Sys2Proof.Machine

/-! ## The blocks that a step of the Peer Monitor leaves alone -/

/-- The Ownership Controller, the Station Controller and the Timebase are as before: what a step of the Peer Monitor
leaves. -/
structure State.PeersOnly (s t : State) : Prop where
  oc : t.oc = s.oc
  station : t.station = s.station
  timebase : t.timebase = s.timebase

protected theorem State.PeersOnly.trans {s t u : State} (h : s.PeersOnly t) (k : t.PeersOnly u) : s.PeersOnly u :=
  ⟨k.oc.trans h.oc, k.station.trans h.station, k.timebase.trans h.timebase⟩

section
variable {p : StationId} {s : State}

theorem refreshIsolated_peersOnly (j : Option StationId) (s : State) : s.PeersOnly (refreshIsolated j s) :=
  have hstep := refreshIsolated_step j s
  ⟨refreshIsolated_oc j s, hstep.station, hstep.timebase⟩

theorem leftPosted_peersOnly : s.PeersOnly (refreshIsolated none (leftPosted p s)) :=
  State.PeersOnly.trans (t := leftPosted p s) ⟨rfl, rfl, rfl⟩ (refreshIsolated_peersOnly none _)

theorem becomeLive_peersOnly : s.PeersOnly (becomeLive p s) :=
  State.PeersOnly.trans (t := livePosted p s) ⟨rfl, rfl, rfl⟩ (refreshIsolated_peersOnly (some p) _)

theorem arrive_peersOnly (body : FrameBody) : s.PeersOnly (arrive p body s) := by
  simp only [arrive]
  split
  · exact ⟨request_oc .., (requestStatus_step _).station, (requestStatus_step _).timebase⟩
  · exact ⟨rfl, rfl, rfl⟩

theorem stateStep_peersOnly (body : FrameBody) (follows : Bool) : s.PeersOnly (stateStep p body follows s) := by
  simp only [stateStep]
  split
  · split
    · exact becomeLive_peersOnly
    · exact ⟨rfl, rfl, rfl⟩
  · exact ⟨rfl, rfl, rfl⟩
  · exact ⟨rfl, rfl, rfl⟩
  · exact arrive_peersOnly body
  · exact arrive_peersOnly body
  · exact arrive_peersOnly body

theorem replaceData_peersOnly (body : FrameBody) (s : State) : s.PeersOnly (replaceData p body s) := by
  cases body <;> exact ⟨rfl, rfl, rfl⟩

/-- Steps 4 and 5 of R88. -/
theorem dataStep_peersOnly (body : FrameBody) (follows : Bool) :
    s.PeersOnly (replaceData p body (stateStep p body follows s)) :=
  (stateStep_peersOnly body follows).trans (replaceData_peersOnly body _)

end

/-! ## The record after an evaluation (R15, R18) -/

/-- An evaluation keeps the record, or creates an own one. -/
theorem Evaluation.record {n : Service} {s t : State} (h : Evaluation n s t) :
    (t.entry n).record = (s.entry n).record ∨ ∃ r, (t.entry n).record = some r ∧ r.claimant = s.station.ownId := by
  cases h with
  | same => exact .inl rfl
  | removed => exact .inl (by rw [removeWtr_entry])
  | started => exact .inl (by rw [startWtr_entry])
  | claimed e m => exact .inr ⟨_, by rw [queueOwnClaim_entry, stamp_record], rfl⟩

/-! ## An entry that a peer leaves (R70) -/

/-- From `a` to `b` an entry keeps its epoch, and its owner too unless that is `p`, which it may lose. -/
structure ServiceEntry.LeftBy (p : StationId) (a b : ServiceEntry) : Prop where
  epoch : b.epoch = a.epoch
  owner : b.owner = a.owner ∨ (a.owner = some p ∧ b.owner = none)

namespace ServiceEntry.LeftBy
variable {p : StationId} {a b c : ServiceEntry}

theorem of_same (ho : b.owner = a.owner) (he : b.epoch = a.epoch) : LeftBy p a b := ⟨he, .inl ho⟩

protected theorem trans (h : LeftBy p a b) (k : LeftBy p b c) : LeftBy p a c where
  epoch := k.epoch.trans h.epoch
  owner := by
    rcases h.owner with hab | ⟨hap, hb⟩
    · rw [← hab]
      exact k.owner
    · refine .inr ⟨hap, ?_⟩
      rcases k.owner with hbc | ⟨-, hc⟩
      · exact hbc.trans hb
      · exact hc

theorem owner_none (h : LeftBy p a b) (ha : a.owner = some p) (hb : b.owner ≠ some p) : b.owner = none := by
  rcases h.owner with hab | ⟨-, hnone⟩
  · exact absurd (hab.trans ha) hb
  · exact hnone

theorem owner_ne (h : LeftBy p a b) (ha : a.owner ≠ some p) : b.owner ≠ some p := by
  rcases h.owner with hab | ⟨hap, -⟩
  · rwa [hab]
  · exact absurd hap ha

end ServiceEntry.LeftBy

/-- `p` is neither the owner of the entry nor the claimant of its record. -/
structure ServiceEntry.FreeOf (p : StationId) (e : ServiceEntry) : Prop where
  owner : e.owner ≠ some p
  claimant : ∀ r, e.record = some r → r.claimant ≠ p

/-- What an operation on each service makes of entry `n` is what its own part makes of it, where the other blocks stand. -/
theorem forEach_entry {f : Service → State → State} {P : Service → ServiceEntry → Prop}
    (hstep : ∀ n s, EntryStep n s (f n s)) (s : State)
    (hf : ∀ n t, OwnerStep s t → t.entry n = s.entry n → P n ((f n t).entry n)) (n : Service) :
    P n ((forEach f s).entry n) :=
  forEach_entries (pre := fun t m => OwnerStep s t ∧ t.entry m = s.entry m) (post := fun t m => P m (t.entry m)) hstep
    (fun _ _ _ _ k hm h => ⟨h.1.trans k.owner, (k.others _ hm).1.trans h.2⟩)
    (fun _ _ _ _ k hm h => by rw [(k.others _ hm).1]; exact h)
    (fun n t h => hf n t h.1 h.2) (fun _ => ⟨.refl s, rfl⟩) n

section
variable {p : StationId} {s : State}

/-! ## Reports before the delivery (R7, R27, R69) -/

theorem evaluate_leftBy (n : Service) (s : State) : (s.entry n).LeftBy p ((evaluate n s).entry n) :=
  .of_same (evaluate_owner n s) (evaluate_epoch n s)

theorem evaluateAll_leftBy (s : State) (n : Service) : (s.entry n).LeftBy p ((evaluateAll s).entry n) :=
  forEach_entry (P := fun m e => (s.entry m).LeftBy p e) evaluate_entryStep s
    (fun m t _ he => he ▸ evaluate_leftBy m t) n

/-- An evaluation of all services brings no claim of a peer. -/
theorem evaluateAll_freeOf (hp : p ≠ s.station.ownId) (n : Service) (h : (s.entry n).FreeOf p) :
    ((evaluateAll s).entry n).FreeOf p := by
  refine ⟨(evaluateAll_leftBy s n).owner_ne h.owner, ?_⟩
  refine forEach_entry (P := fun m e => (s.entry m).FreeOf p → ∀ r, e.record = some r → r.claimant ≠ p)
    evaluate_entryStep s (fun m t k he hfree r hr => ?_) n h
  rcases (evaluate_evaluation m t).record with hsame | ⟨own, hown, hclaimant⟩
  · exact hfree.claimant r (he ▸ hsame ▸ hr)
  · rw [hown] at hr
    cases hr
    rw [hclaimant, k.station]
    exact hp.symm

/-- Settling keeps the owner and the epoch, and ends a claim of a peer that is not LIVE (R27). -/
theorem settleForPeer_entry (q : StationId) (n : Service) (s : State) :
    (s.entry n).LeftBy p ((settleForPeer q n s).entry n) ∧
      (s.isLive q = false → ∀ r, ((settleForPeer q n s).entry n).record = some r → r.claimant ≠ q) := by
  simp only [settleForPeer]
  cases hr : (s.entry n).record with
  | some r =>
    dsimp only
    split
    · rw [dropRecord_eq, putEntry_entry_same]
      refine ⟨.of_same (stamp_owner ..) (stamp_epoch ..), fun _ x hx => ?_⟩
      rw [stamp_record] at hx
      cases hx
    · next hn =>
      refine ⟨.of_same rfl rfl, fun hl x hx hq => hn ⟨?_, hl⟩⟩
      rw [hr] at hx
      cases hx
      exact hq
  | none =>
    dsimp only
    split
    · rw [changeEntry_entry_same]
      refine ⟨.of_same (stamp_owner ..) (stamp_epoch ..), fun _ x hx => ?_⟩
      rw [stamp_record] at hx
      cases hx
    · exact ⟨.of_same rfl rfl, fun _ x hx => by cases hr.symm.trans hx⟩

theorem reportPeerState_leftBy (q : StationId) (s : State) (n : Service) :
    (s.entry n).LeftBy p ((reportPeerState q s).entry n) :=
  (forEach_entry (P := fun m e => (s.entry m).LeftBy p e) (settleForPeer_entryStep q) s
    (fun m t _ he => he ▸ (settleForPeer_entry q m t).1) n).trans (evaluateAll_leftBy ..)

theorem reportFlag_leftBy (b : Bool) (s : State) (n : Service) : (s.entry n).LeftBy p ((reportFlag b s).entry n) := by
  unfold reportFlag
  split
  · exact .of_same rfl rfl
  · exact evaluateAll_leftBy s n

theorem reportFlag_freeOf (hp : p ≠ s.station.ownId) (b : Bool) (n : Service) (h : (s.entry n).FreeOf p) :
    ((reportFlag b s).entry n).FreeOf p := by
  unfold reportFlag
  split
  · exact h
  · exact evaluateAll_freeOf hp n h

theorem reportChange_leftBy (q : StationId) (changed flag : Bool) (s : State) (n : Service) :
    (s.entry n).LeftBy p ((reportChange q changed flag s).entry n) := by
  unfold reportChange
  split
  · exact (reportPeerState_leftBy q s n).trans (reportFlag_leftBy ..)
  · exact .of_same rfl rfl

/-! ## Reconciliation with an empty held list (R60, R61) -/

/-- After a STATUS that lists no service a defined entry that the peer still owns carries a record. -/
structure ServiceEntry.Unlisted (p : StationId) (a b : ServiceEntry) : Prop extends a.LeftBy p b where
  record : b.owner = some p → b.record ≠ none

theorem reconcile_entry_unlisted {n : Service} {b : StatusBody} (hl : b.listing n = none) :
    (s.entry n).Unlisted p ((reconcile n p b s).entry n) := by
  cases hr : (s.entry n).record with
  | some r =>
    rw [reconcile_of_record hr, putEntry_entry_same]
    exact ⟨.of_same (stamp_owner ..) (stamp_epoch ..), fun _ => by rw [stamp_record]; exact Option.some_ne_none _⟩
  | none =>
    by_cases ho : (s.entry n).owner = some p
    · rw [(reconcile_of_owner hr ho).1 hl, changeEntry_entry_same]
      refine ⟨⟨stamp_epoch .., .inr ⟨ho, stamp_owner ..⟩⟩, fun h => ?_⟩
      rw [stamp_owner] at h
      cases h
    · rw [reconcile_unlisted hr ho hl]
      exact ⟨.of_same rfl rfl, fun h => absurd h ho⟩

theorem evaluate_record_ne_none {n : Service} (h : (s.entry n).record ≠ none) :
    ((evaluate n s).entry n).record ≠ none := by
  rcases (evaluate_evaluation n s).record with hsame | ⟨r, hr, -⟩
  · rwa [hsame]
  · rw [hr]
    exact Option.some_ne_none r

theorem statusService_unlisted {n : Service} {b : StatusBody} (marks : Table Bool) (hl : b.listing n = none)
    (hd : (s.planOf n).defined = true) : (s.entry n).Unlisted p ((statusService p b marks n s).entry n) := by
  have hrec : (s.entry n).Unlisted p ((reconcileDefined n p b s).entry n) := by
    rw [reconcileDefined, if_pos hd]
    exact reconcile_entry_unlisted hl
  simp only [statusService]
  split
  · refine ⟨hrec.toLeftBy.trans (evaluate_leftBy ..), fun ho => evaluate_record_ne_none (hrec.record ?_)⟩
    rwa [evaluate_owner] at ho
  · exact hrec

theorem listing_of_empty {b : StatusBody} (h : b.held = []) (n : Service) : b.listing n = none := by
  simp [StatusBody.listing, h]

/-! ## The departure (R70, R94) -/

theorem departEntry_entry {n : Service} (hl : s.isLive p = false)
    (h : (s.entry n).owner = some p → (s.entry n).record ≠ none) :
    (s.entry n).LeftBy p ((departEntry p n s).entry n) ∧ ((departEntry p n s).entry n).FreeOf p := by
  simp only [departEntry]
  split
  · next hc =>
    have hlost : ((changeEntry n { s.entry n with owner := none } s).entry n).owner = none := by
      rw [changeEntry_entry_same, stamp_owner]
    have hepoch : ((changeEntry n { s.entry n with owner := none } s).entry n).epoch = (s.entry n).epoch := by
      rw [changeEntry_entry_same, stamp_epoch]
    obtain ⟨hleft, hfree⟩ := settleForPeer_entry (p := p) p n (changeEntry n { s.entry n with owner := none } s)
    refine ⟨.trans ⟨hepoch, .inr ⟨hc.1, hlost⟩⟩ hleft, hleft.owner_ne (by simp), hfree ?_⟩
    rw [(changeEntry_step ..).isLive]
    exact hl
  · next hc =>
    obtain ⟨hleft, hfree⟩ := settleForPeer_entry (p := p) p n s
    exact ⟨hleft, hleft.owner_ne fun ho => hc ⟨ho, h ho⟩, hfree hl⟩

theorem reportDeparture_entry (hl : s.isLive p = false) (hp : p ≠ s.station.ownId) {n : Service}
    (h : (s.entry n).owner = some p → (s.entry n).record ≠ none) :
    (s.entry n).LeftBy p ((reportDeparture p s).entry n) ∧ ((reportDeparture p s).entry n).FreeOf p := by
  obtain ⟨hleft, hfree⟩ := forEach_entry
    (P := fun m e => ((s.entry m).owner = some p → (s.entry m).record ≠ none) → (s.entry m).LeftBy p e ∧ e.FreeOf p)
    (departEntry_entryStep p) s (fun m t k he hm => he ▸ departEntry_entry ((k.isLive p).trans hl) (he ▸ hm)) n h
  refine ⟨hleft.trans (evaluateAll_leftBy ..), evaluateAll_freeOf ?_ n hfree⟩
  rwa [(forEach_step (departEntry_step p) s).station]

theorem leftPosted_isLive : (refreshIsolated none (leftPosted p s)).isLive p = false := by
  have hstate : ((refreshIsolated none (leftPosted p s)).peer p).state = .absent := by
    rw [refreshIsolated_peer, leftPosted, (post_step ..).peer, putPeer_peer_same]
    rfl
  simp [State.isLive, hstate]

/-- A departed peer is neither the owner nor the claimant of an entry that carried a record where the peer owned it. -/
theorem depart_entry (hp : p ≠ s.station.ownId) {n : Service}
    (h : (s.entry n).owner = some p → (s.entry n).record ≠ none) :
    (s.entry n).LeftBy p ((depart p s).entry n) ∧ ((depart p s).entry n).FreeOf p := by
  have hposted := leftPosted_peersOnly (p := p) (s := s)
  have hentry := entry_of_oc hposted.oc n
  have hown : p ≠ (refreshIsolated none (leftPosted p s)).station.ownId := by rwa [hposted.station]
  have hreport := reportDeparture_entry leftPosted_isLive hown (n := n)
  rw [hentry] at hreport
  obtain ⟨hleft, hfree⟩ := hreport h
  rw [depart_eq]
  refine ⟨hleft.trans (reportFlag_leftBy ..), reportFlag_freeOf ?_ _ n hfree⟩
  rwa [(reportDeparture_step ..).station]

/-! ## The table at the delivery -/

theorem delivery_station (body : FrameBody) (follows : Bool) : (delivery p body follows s).station = s.station :=
  (delivery_step ..).station.trans (dataStep_peersOnly ..).station

theorem delivery_timebase (body : FrameBody) (follows : Bool) : (delivery p body follows s).timebase = s.timebase :=
  (delivery_step ..).timebase.trans (dataStep_peersOnly ..).timebase

/-- What the delivery of a STATUS with an empty held list leaves of a defined entry. -/
theorem delivery_unlisted {b : StatusBody} {n : Service} (follows : Bool) (hb : b.held = [])
    (hd : (s.planOf n).defined = true) : (s.entry n).Unlisted p ((delivery p (.status b) follows s).entry n) := by
  have hbefore := dataStep_peersOnly (p := p) (s := s) (.status b) follows
  have hreport := reportChange_step p ((s.peer p).stateChanges (.status b) follows) s.peers.isolated
    (replaceData p (.status b) (stateStep p (.status b) follows s))
  have hleft := reportChange_leftBy (p := p) p ((s.peer p).stateChanges (.status b) follows) s.peers.isolated
    (replaceData p (.status b) (stateStep p (.status b) follows s)) n
  rw [entry_of_oc hbefore.oc] at hleft
  have hstatus := statusService_unlisted (p := p) (frameMarks ((stateStep p (.status b) follows s).peer p).data (.status b))
    (listing_of_empty hb n) (s := reportChange p ((s.peer p).stateChanges (.status b) follows) s.peers.isolated
      (replaceData p (.status b) (stateStep p (.status b) follows s)))
    (by rw [hreport.planOf, State.planOf, hbefore.station]; exact hd)
  rw [← (receiveStatus_at ..).entry] at hstatus
  exact ⟨hleft.trans hstatus.toLeftBy, hstatus.record⟩

end

/-! ## A LEAVING STATUS (R94) -/

theorem status_of_isStatus {body : FrameBody} (h : body.isStatus = true) : ∃ b, body = .status b := by
  cases body with
  | status b => exact ⟨b, rfl⟩
  | claim c => cases h
  | release xs => cases h
  | object xs => cases h

/-- A LEAVING body is a STATUS. -/
theorem isStatus_of_isLeaving {body : FrameBody} (h : body.isLeaving = true) : body.isStatus = true := by
  cases body with
  | status b => rfl
  | claim c => cases h
  | release xs => cases h
  | object xs => cases h

section
variable {p : StationId} {b : StatusBody} {s : State} (hleave : (FrameBody.status b).isLeaving = true) (follows : Bool)
include hleave

theorem takeData_departs :
    takeData p (.status b) follows s = depart p (delivery p (.status b) follows s) := by
  rw [takeData_eq, departIfLeaving, if_pos hleave]

theorem delivery_posts_of_leaving : s.Posts 16 (delivery p (.status b) follows s) :=
  .quiet_before (stateStep_host_of_leaving hleave follows) (delivery_posts p b follows s)

/-- PEER_LEFT is posted, and PEER_LIVE is not (R94; log entry 14). -/
theorem takeData_leaving_events :
    (s.CanRecord 19 →
      s.event .peerLeft none (some p) none none ∈ (takeData p (.status b) follows s).host.events) ∧
    (takeData p (.status b) follows s).peerLives = s.peerLives := by
  have hposts := delivery_posts_of_leaving (p := p) (s := s) hleave follows
  rw [takeData_departs hleave]
  refine ⟨fun hrec => ?_, (hposts.trans (depart_posts ..)).peerLives⟩
  have hleft := depart_peerLeft (p := p) (hposts.room 1 (hrec.le (by decide)))
  simpa only [State.event, delivery_timebase] using hleft

/-- The departed peer owns no defined service and claims none, and every epoch stands (R70). -/
theorem takeData_leaving_entry (hp : p ≠ s.station.ownId) (hb : b.held = []) {n : Service}
    (hd : (s.planOf n).defined = true) :
    (s.entry n).LeftBy p ((takeData p (.status b) follows s).entry n) ∧
      ((takeData p (.status b) follows s).entry n).FreeOf p := by
  have hunlisted := delivery_unlisted (p := p) follows hb hd
  obtain ⟨hleft, hfree⟩ := depart_entry (s := delivery p (.status b) follows s)
    (by rw [delivery_station]; exact hp) hunlisted.record
  rw [takeData_departs hleave]
  exact ⟨hunlisted.toLeftBy.trans hleft, hfree⟩

end

/-! ## An ARRIVING peer (R93) -/

/-- Table of R93 for an ARRIVING peer whose frame is no LEAVING STATUS. -/
theorem delivered_of_arriving {e : PeerEntry} {f : Frame} {last : Byte} (hs : e.state = .arriving)
    (hl : e.lastSeq = some last) (hin : e.inOrder < 2) (hleave : f.body.isLeaving = false) :
    (f.body.isStatus = true → f.seq = last + 1 → e.inOrder = 1 →
      (e.delivered f).state = .live ∧ (e.delivered f).inOrder = 2) ∧
    (f.body.isStatus = true → f.seq = last + 1 → e.inOrder = 0 →
      (e.delivered f).state = .arriving ∧ (e.delivered f).inOrder = 1) ∧
    (f.body.isStatus = true → f.seq ≠ last + 1 →
      (e.delivered f).state = .arriving ∧ (e.delivered f).inOrder = 1) ∧
    (f.body.isStatus = false → f.seq = last + 1 →
      (e.delivered f).state = .arriving ∧ (e.delivered f).inOrder = e.inOrder) ∧
    (f.body.isStatus = false → f.seq ≠ last + 1 →
      (e.delivered f).state = .arriving ∧ (e.delivered f).inOrder = 0) := by
  have hcount := delivered_counts (f := f) hs
  have hlive := delivered_reaches (f := f) hs hleave
  rw [follows_eq hl] at hcount hlive
  refine ⟨fun hb hq h1 => ?_, fun hb hq h0 => ?_, fun hb hq => ?_, fun hb hq => ?_, fun hb hq => ?_⟩
  · rw [hb, decide_eq_true hq] at hlive
    exact hlive (by simp [PeerEntry.countInOrder, h1])
  · rw [hb, decide_eq_true hq] at hcount
    simpa [PeerEntry.countInOrder, h0] using hcount
  · rw [hb, decide_eq_false hq] at hcount
    simpa [PeerEntry.countInOrder] using hcount
  · rw [hb, decide_eq_true hq] at hcount
    exact hcount hin
  · rw [hb, decide_eq_false hq] at hcount
    simpa [PeerEntry.countInOrder] using hcount

/-- The second STATUS in order posts PEER_LIVE first (R93). -/
theorem takeData_peerLive {p : StationId} {b : StatusBody} {s : State} {follows : Bool}
    (hs : (s.peer p).state = .arriving) (hr : (s.peer p).reachesLive (.status b) follows = true) (h : s.CanRecord 1) :
    s.host.events ++ [s.event .peerLive none (some p) none none] <+:
      (takeData p (.status b) follows s).host.events := by
  have hgrow := (takeData_posts p b follows s).grow
  rw [stateStep_of_reaches hs hr] at hgrow
  exact (becomeLive_posted h).trans hgrow

/-! ## The statement -/

section
variable {f : Frame} {s : State} (hc : f.checksum = s.station.checksum) (hq : (s.peer f.sender).lastSeq ≠ some f.seq)
include hc hq

theorem takeFrame_data : ((takeFrame f s).peer f.sender).data = ((s.peer f.sender).delivered f).data := by
  rw [takeFrame_peer hc hq]
  split
  · rfl
  · rfl

theorem takeFrame_peer_leaving (hleave : f.body.isLeaving = true) :
    (takeFrame f s).peer f.sender = ((s.peer f.sender).delivered f).departed := by
  rw [takeFrame_peer hc hq, if_pos hleave]

theorem takeFrame_peer_staying (hleave : f.body.isLeaving = false) :
    (takeFrame f s).peer f.sender = (s.peer f.sender).delivered f := by
  rw [takeFrame_peer hc hq, if_neg (by simp [hleave])]

theorem takeFrame_leaving_events (hleave : f.body.isLeaving = true) :
    (s.CanRecord 19 → s.event .peerLeft none (some f.sender) none none ∈ (takeFrame f s).host.events) ∧
      (takeFrame f s).peerLives = s.peerLives := by
  obtain ⟨b, hb⟩ := status_of_isStatus (isStatus_of_isLeaving hleave)
  rw [hb] at hleave
  rw [takeFrame_accepted hc hq, hb]
  exact takeData_leaving_events (s := putPeer f.sender ((s.peer f.sender).taken f) s) hleave _

theorem takeFrame_leaving_entry (hleave : f.body.isLeaving = true) (hp : f.sender ≠ s.station.ownId)
    (hheld : ∀ b, f.body = .status b → b.held = []) {n : Service} (hd : (s.planOf n).defined = true) :
    (s.entry n).LeftBy f.sender ((takeFrame f s).entry n) ∧ ((takeFrame f s).entry n).FreeOf f.sender := by
  obtain ⟨b, hb⟩ := status_of_isStatus (isStatus_of_isLeaving hleave)
  rw [hb] at hleave
  rw [takeFrame_accepted hc hq, hb]
  exact takeData_leaving_entry (s := putPeer f.sender ((s.peer f.sender).taken f) s) hleave _ hp (hheld b hb) hd

theorem takeFrame_peerLive {last : Byte} (hs : (s.peer f.sender).state = .arriving)
    (hl : (s.peer f.sender).lastSeq = some last) (hleave : f.body.isLeaving = false) (hstatus : f.body.isStatus = true)
    (hseq : f.seq = last + 1) (h1 : (s.peer f.sender).inOrder = 1) (h : s.CanRecord 1) :
    s.host.events ++ [s.event .peerLive none (some f.sender) none none] <+: (takeFrame f s).host.events := by
  have hreaches : ((s.peer f.sender).taken f).reachesLive f.body ((s.peer f.sender).follows f.seq) = true := by
    simp [PeerEntry.reachesLive, follows_eq hl, hleave, hstatus, hseq, PeerEntry.countInOrder, h1]
  obtain ⟨b, hb⟩ := status_of_isStatus hstatus
  rw [takeFrame_accepted hc hq]
  rw [hb] at hreaches ⊢
  exact takeData_peerLive (s := putPeer f.sender ((s.peer f.sender).taken f) s)
    (by rw [putPeer_peer_same, taken_state]; exact hs) (by rw [putPeer_peer_same]; exact hreaches) (h.of_host rfl)

end

/-- Settles O38: the peer's own entry is that of R88 step by step; a LEAVING STATUS posts PEER_LEFT and frees the defined
services of the peer, and a STATUS that makes the peer LIVE posts PEER_LIVE first. -/
theorem peerStates : Obligations.PeerStates := by
  intro f s hc hq hself
  obtain ⟨hstatus, hother⟩ := delivered_data (e := s.peer f.sender) (f := f)
  refine ⟨fun b hb => (takeFrame_data hc hq).trans (hstatus b hb), fun hb => (takeFrame_data hc hq).trans (hother hb),
    fun hleave => ?_, fun hleave => ?_⟩
  · obtain ⟨hleft, hlive⟩ := takeFrame_leaving_events hc hq hleave
    rw [takeFrame_peer_leaving hc hq hleave]
    refine ⟨rfl, rfl, rfl, hleft, hlive, fun hp hheld n hd => ?_⟩
    obtain ⟨hkept, hfree⟩ := takeFrame_leaving_entry hc hq hleave hp hheld hd
    exact ⟨hfree.owner, fun ho => hkept.owner_none ho hfree.owner, hkept.epoch, hfree.claimant⟩
  · rw [takeFrame_peer_staying hc hq hleave]
    refine ⟨delivered_silence hself, fun hl => ⟨(delivered_of_live hl).1, (delivered_of_live hl).2.1⟩,
      fun hl ha => ⟨(delivered_of_unheard hl ha hself).1, (delivered_of_unheard hl ha hself).2.1⟩,
      fun last hs hl hin => ?_⟩
    obtain ⟨hlive, hcounts⟩ := delivered_of_arriving (f := f) hs hl hin hleave
    exact ⟨fun hb hseq h1 => ⟨(hlive hb hseq h1).1, (hlive hb hseq h1).2,
      takeFrame_peerLive hc hq hs hl hleave hb hseq h1⟩, hcounts⟩

end Sys2Proof.Machine

/-! Refused commands (R81, R106, R111, R150) and the bytes of the Plan window (R85, R149): what a byte taken in a write
transaction leaves when it is refused, and what an accepted plan byte writes and reads back. -/

namespace Sys2Proof.Machine

/-! ## A byte in a write transaction (R147) -/

section
variable {a : HostAddress} {s : State}

theorem dataByte_of_write (h : s.host.txn = .data .write a) (take : State → State) :
    dataByte a take s = moveAddress a (take s) := by
  unfold dataByte
  rw [h]
  exact if_pos rfl

theorem moveAddress_of_data {d : Direction} {c : HostAddress} (h : s.host.txn = .data d c) (a : HostAddress) :
    moveAddress a s = s.withHost { s.host with txn := .data d (nextAddress a) } := by
  unfold moveAddress
  rw [h]

/-- A byte that sets the command result alone answers with it (R150). -/
theorem moveAddress_setResult {a : BitVec 7} (h : s.host.txn = .data .write (.at a)) (r : CommandResult) :
    moveAddress (.at a) (setResult r s) = s.answered a r := by
  rw [moveAddress_of_data (s := setResult r s) h, State.answered, h]
  rfl

end

/-! ## Refused commands (R81, R106, R111, R150) -/

section
variable {s : State} {r : CommandResult}

theorem moveAddress_refusedCode (h : s.host.txn = .data .write (.at addrCode)) (code : Byte) (r : CommandResult) :
    moveAddress (.at addrCode) (setResult r (storeCode code s)) = s.refusedCode code r :=
  moveAddress_setResult (s := storeCode code s) h r

/-- A command that answers with its result alone leaves nothing but the code byte and the address changed. -/
theorem takeCommand_refused {c : Command} (h : s.host.txn = .data .write (.at addrCode))
    (hc : runCommand c (storeCode c.code s) = setResult r (storeCode c.code s)) :
    takeCommand c s = s.refusedCode c.code r := by
  rw [takeCommand, dataByte_of_write h, hc, moveAddress_refusedCode h]

theorem commandStart_refused (h : s.station.phase ≠ .config) : commandStart s = setResult .refusedPhase s := if_neg h

theorem commandLeave_refused (hl : s.station.phase ≠ .listen) (ha : s.station.phase ≠ .active) :
    commandLeave s = setResult .refusedPhase s := if_neg (not_or_intro hl ha)

theorem operatorRequest_refused {b : Bool} (h : requestTest b s = r) (hr : r ≠ .done) (q : Request) :
    operatorRequest q b s = setResult r s := by
  unfold operatorRequest
  rw [h]
  split
  · exact absurd rfl hr
  · rfl

theorem requestTest_of_phase (hl : s.station.phase ≠ .listen) (ha : s.station.phase ≠ .active) (b : Bool) :
    requestTest b s = .refusedPhase := if_pos ⟨hl, ha⟩

theorem indexOfByte_eq_none {b : Byte} (h : 15 < b.toNat) : indexOfByte b = none := dif_neg (by omega)

variable (hp : s.station.phase = .listen ∨ s.station.phase = .active)
include hp

theorem requestTest_of_argument (h : 15 < s.host.argument.toNat) (b : Bool) : requestTest b s = .refusedArg := by
  unfold requestTest
  rw [if_neg (by tauto), indexOfByte_eq_none h]

theorem requestTest_of_rank {n : Service} (hn : s.host.argument.toNat = n.val) (h : (s.planOf n).rank = 0) :
    requestTest true s = .refusedArg := by
  unfold requestTest
  rw [if_neg (by tauto), indexOfByte_of_toNat hn]
  exact if_pos ⟨rfl, h⟩

end

/-- A byte that names a command is that command's code (Table 11-9). -/
theorem eq_code_of_commandOfCode {code : Byte} {c : Command} (h : commandOfCode code = some c) : code = c.code := by
  unfold commandOfCode at h
  split at h <;> cases h <;> exact BitVec.eq_of_toNat_eq ‹_›

theorem commandOfCode_eq_none {code : Byte} (h : code ∉ [0x01, 0x02, 0x03, 0x10, 0x11, 0x12, (0x20 : Byte)]) :
    commandOfCode code = none := by
  by_contra hne
  obtain ⟨c, hc⟩ := Option.ne_none_iff_exists'.1 hne
  refine h (eq_code_of_commandOfCode hc ▸ ?_)
  cases c <;> decide

theorem exec_unknownCommandCode {s : State} {code : Byte} (h : s.host.txn = .data .write (.at addrCode))
    (hc : commandOfCode code = none) :
    exec (.unknownCommandCode code) s = .next (s.refusedCode code .refusedArg) := by
  have hwrite : writeCode code s = setResult .refusedArg (storeCode code s) := by
    unfold writeCode
    rw [hc]
  refine congrArg Host.Outcome.next ?_
  rw [dataByte_of_write h, hwrite, moveAddress_refusedCode h]

/-- Settles O51: the phase, the argument and the rank are tested before a command touches anything but its code byte. -/
theorem refusedCommands : Obligations.RefusedCommands := by
  intro s htxn
  have hrefused : ∀ (c : Command) (r : CommandResult),
      runCommand c (storeCode c.code s) = setResult r (storeCode c.code s) →
      Host.Outcome.next (takeCommand c s) = (.next (s.refusedCode c.code r) : Host.Outcome State Fault Refusal) :=
    fun c r h => congrArg Host.Outcome.next (takeCommand_refused htxn h)
  have hrequest : ∀ (q : Request) (b : Bool) (code : Byte) (r : CommandResult), r ≠ .done →
      requestTest b (storeCode code s) = r →
      operatorRequest q b (storeCode code s) = setResult r (storeCode code s) :=
    fun q b code r hr h => operatorRequest_refused h hr q
  refine ⟨fun hp => hrefused .start _ (commandStart_refused hp), fun hl ha => ?_, fun hp => ⟨fun harg => ?_, ?_⟩,
    fun code hcode => exec_unknownCommandCode htxn (commandOfCode_eq_none hcode)⟩
  · have htest : ∀ (b : Bool) (code : Byte), requestTest b (storeCode code s) = .refusedPhase :=
      fun b code => requestTest_of_phase hl ha b
    exact ⟨hrefused .leave _ (commandLeave_refused hl ha),
      hrefused .force _ (hrequest _ _ _ _ (by decide) (htest ..)),
      hrefused .lockout _ (hrequest _ _ _ _ (by decide) (htest ..)),
      hrefused .clear _ (hrequest _ _ _ _ (by decide) (htest ..))⟩
  · have htest : ∀ (b : Bool) (code : Byte), requestTest b (storeCode code s) = .refusedArg :=
      fun b code => requestTest_of_argument (s := storeCode code s) hp harg b
    exact ⟨hrefused .force _ (hrequest _ _ _ _ (by decide) (htest ..)),
      hrefused .lockout _ (hrequest _ _ _ _ (by decide) (htest ..)),
      hrefused .clear _ (hrequest _ _ _ _ (by decide) (htest ..))⟩
  · intro n hn hrank
    have htest : ∀ code : Byte, requestTest true (storeCode code s) = .refusedArg :=
      fun code => requestTest_of_rank (s := storeCode code s) hp hn hrank
    exact ⟨hrefused .force _ (hrequest _ _ _ _ (by decide) (htest _)),
      hrefused .lockout _ (hrequest _ _ _ _ (by decide) (htest _))⟩


/-! ## The Plan window (R149, Table 11-5) -/

/-- The byte at which a plan field reads, for service `n` (Table 11-5). -/
def Plan.fieldByte (p : Plan) (n : Service) : PlanField → Byte
  | .flags => (look p.records n).flagsByte
  | .wtr => (look p.records n).wtr
  | .rank => byteOf (look p.records n).rank.val
  | .holdOff => (look p.records n).holdOff
  | .version => p.version
  | .expectedPeers => byteOfIndex p.expectedPeers

theorem hostRead_planField (s : State) (f : PlanField) :
    hostRead s (.at (planFieldAddr f)) = s.station.plan.fieldByte s.host.planSelect f := by
  cases f <;> rfl

/-- The ranges of the plan fields (R149, case 2). -/
theorem planRefuses_iff (r : PlanRecord) (f : PlanField) (v : Byte) : planRefuses r f v = true ↔
    (f = .wtr ∧ v = 0) ∨ (f = .rank ∧ (7 < v.toNat ∨ (v ≠ 0 ∧ r.defined = false))) ∨
      (f = .expectedPeers ∧ 15 < v.toNat) := by
  cases f <;> simp [planRefuses]

theorem bit_getLsbD (v : Byte) (i : Nat) : bit (v.getLsbD i) = v.toNat / 2 ^ i % 2 := by
  rw [← BitVec.testBit_toNat, Nat.testBit_eq_decide_div_mod_eq]
  unfold bit
  split
  · next h => exact (of_decide_eq_true h).symm
  · next h =>
    have := of_decide_eq_false (Bool.eq_false_of_not_eq_true h)
    omega

/-- The flags read back in their two bits (R157). -/
theorem flagsByte_withFlags (r : PlanRecord) (v : Byte) : (r.withFlags v).flagsByte = v &&& 3 := by
  have hmask : (v &&& 3).toNat = v.toNat % 4 := Nat.and_two_pow_sub_one_eq_mod v.toNat 2
  refine BitVec.eq_of_toNat_eq ?_
  simp only [PlanRecord.flagsByte, PlanRecord.withFlags, bit_getLsbD, byteOf, hmask, BitVec.toNat_ofNat]
  omega

theorem byteOf_mod {v : Byte} {k : Nat} (h : v.toNat < k) : byteOf (v.toNat % k) = v := by
  rw [Nat.mod_eq_of_lt h, byteOf, BitVec.ofNat_toNat, BitVec.setWidth_eq]

section
variable {p : Plan} {n : Service} {f g : PlanField} {v : Byte}

/-- An accepted byte reads back (R149, case 3). -/
theorem fieldByte_withField_same (h : planRefuses (look p.records n) f v = false) :
    (p.withField n f v).fieldByte n f = if f = .flags then v &&& 3 else v := by
  cases f with
  | flags =>
    simp only [Plan.fieldByte, Plan.withField, look_place_same, flagsByte_withFlags]
    rfl
  | rank =>
    have hv : v.toNat < 8 := by
      simp only [planRefuses, decide_eq_false_iff_not] at h
      omega
    simp only [Plan.fieldByte, Plan.withField, look_place_same]
    exact byteOf_mod hv
  | expectedPeers =>
    have hv : v.toNat < 16 := by
      simp only [planRefuses, decide_eq_false_iff_not] at h
      omega
    exact byteOf_mod hv
  | wtr => simp [Plan.fieldByte, Plan.withField]
  | holdOff => simp [Plan.fieldByte, Plan.withField]
  | version => rfl

/-- A byte in one field leaves the others as they read, but for the rank that undefining a service clears (R149). -/
theorem fieldByte_withField_ne (hg : g ≠ f) (hrank : ¬(f = .flags ∧ g = .rank)) :
    (p.withField n f v).fieldByte n g = p.fieldByte n g := by
  cases f
  case flags => cases g <;> simp_all [Plan.fieldByte, Plan.withField, PlanRecord.withFlags]
  all_goals cases g <;> simp_all [Plan.fieldByte, Plan.withField, PlanRecord.flagsByte]

theorem withField_flags_rank :
    (look (p.withField n .flags v).records n).rank = if v.getLsbD 0 then (look p.records n).rank else 0 := by
  simp only [Plan.withField, look_place_same, PlanRecord.withFlags]

end

/-! ## Writes of the Plan window (R85, R149) -/

/-- The state with an accepted plan byte and its answer, the grade of the service not yet formed anew. -/
def planStored (f : PlanField) (v : Byte) (s : State) : State :=
  setResult .done (s.withStation { s.station with plan := s.station.plan.withField s.host.planSelect f v })

/-- The state after an accepted plan byte in a write transaction. -/
def planWritten (f : PlanField) (v : Byte) (s : State) : State :=
  moveAddress (.at (planFieldAddr f)) (reform s.host.planSelect (planStored f v s))

section
variable {f : PlanField} {v : Byte} {s : State}

theorem writePlanField_outside_config (h : s.station.phase ≠ .config) :
    writePlanField f v s = setResult .refusedPhase s := if_pos h

theorem writePlanField_refused (hp : s.station.phase = .config)
    (h : planRefuses (s.planOf s.host.planSelect) f v = true) : writePlanField f v s = setResult .refusedArg s := by
  unfold writePlanField
  rw [if_neg (not_not_intro hp)]
  exact if_pos h

theorem writePlanField_accepted (hp : s.station.phase = .config)
    (h : planRefuses (s.planOf s.host.planSelect) f v = false) :
    writePlanField f v s = reform s.host.planSelect (planStored f v s) := by
  unfold writePlanField
  rw [if_neg (not_not_intro hp)]
  exact if_neg (Bool.not_eq_true _ ▸ h)

end

section
variable (f : PlanField) (v : Byte) (s : State)

theorem planWritten_station : (planWritten f v s).station =
    { s.station with plan := s.station.plan.withField s.host.planSelect f v } := by
  rw [planWritten, moveAddress_fields]
  rfl

theorem planWritten_planOf (m : Service) : (planWritten f v s).planOf m =
    look (s.station.plan.withField s.host.planSelect f v).records m := by
  rw [State.planOf, planWritten_station]

theorem planWritten_condition (m : Service) : (planWritten f v s).condition m =
    if m = s.host.planSelect then
      (s.condition m).formed (look (s.station.plan.withField s.host.planSelect f v).records m)
    else s.condition m := by
  rw [planWritten, moveAddress_condition, reform, putCondition_condition]
  split
  · next hm =>
    subst hm
    rfl
  · rfl

/-- The bytes of the Plan window after an accepted byte are those of the new plan (Table 11-5). -/
theorem hostRead_planWritten (hselect : (planWritten f v s).host.planSelect = s.host.planSelect) (g : PlanField) :
    hostRead (planWritten f v s) (.at (planFieldAddr g)) =
      (s.station.plan.withField s.host.planSelect f v).fieldByte s.host.planSelect g := by
  rw [hostRead_planField, planWritten_station, hselect]

end

theorem planWritten_eq {f : PlanField} {s : State} (h : s.host.txn = .data .write (.at (planFieldAddr f))) (v : Byte) :
    planWritten f v s =
      (reform s.host.planSelect (planStored f v s)).withHost
        { s.host with result := .done, txn := .data .write (nextAddress (.at (planFieldAddr f))) } :=
  moveAddress_of_data (s := reform s.host.planSelect (planStored f v s)) h _

theorem exec_planFieldWrite {f : PlanField} {s : State} (h : s.host.txn = .data .write (.at (planFieldAddr f)))
    (v : Byte) :
    exec (.planFieldWrite f v) s = .next (moveAddress (.at (planFieldAddr f)) (writePlanField f v s)) :=
  congrArg Host.Outcome.next (dataByte_of_write h _)

theorem exec_planSelectWrite {s : State} (h : s.host.txn = .data .write (.at addrPlanSelect)) (v : Byte) :
    exec (.planSelectWrite v) s = .next (moveAddress (.at addrPlanSelect) (writePlanSelect v s)) :=
  congrArg Host.Outcome.next (dataByte_of_write h _)

theorem writePlanSelect_of_service {v : Byte} {n : Service} (h : v.toNat = n.val) (s : State) :
    writePlanSelect v s = setResult .done (s.withHost { s.host with planSelect := n }) := by
  unfold writePlanSelect
  rw [indexOfByte_of_toNat h]

theorem writePlanSelect_refused {v : Byte} (h : 15 < v.toNat) (s : State) :
    writePlanSelect v s = setResult .refusedArg s := by
  unfold writePlanSelect
  rw [indexOfByte_eq_none h]

/-- Settles O55: the select and the fields are judged before they write; a byte that is accepted reads back, and the
grade of its service is formed from the plan that holds it. -/
theorem planWrites : Obligations.PlanWrites := by
  intro s v
  refine ⟨fun htxn => ⟨fun n hn => ?_, fun hv => ?_⟩, ⟨rfl, rfl, rfl, rfl, rfl, rfl⟩, fun f htxn =>
    ⟨fun hp => ?_, fun hp => ⟨fun hbad => ?_, fun hgood => ?_⟩⟩⟩
  · rw [exec_planSelectWrite htxn, writePlanSelect_of_service hn,
      moveAddress_of_data (s := setResult .done (s.withHost { s.host with planSelect := n })) htxn]
    rfl
  · exact (exec_planSelectWrite htxn v).trans
      (congrArg Host.Outcome.next (by rw [writePlanSelect_refused hv]; exact moveAddress_setResult htxn _))
  · rw [exec_planFieldWrite htxn, writePlanField_outside_config hp, moveAddress_setResult htxn]
  · rw [exec_planFieldWrite htxn, writePlanField_refused hp ((planRefuses_iff ..).2 hbad), moveAddress_setResult htxn]
  · have haccepted : planRefuses (s.planOf s.host.planSelect) f v = false :=
      Bool.eq_false_of_not_eq_true fun h => hgood ((planRefuses_iff ..).1 h)
    have hexec : exec (.planFieldWrite f v) s = .next (planWritten f v s) := by
      rw [exec_planFieldWrite htxn, writePlanField_accepted hp haccepted, planWritten]
    have hstation := planWritten_station f v s
    have hplan := planWritten_planOf f v s
    have hcond := planWritten_condition f v s
    have hread := hostRead_planWritten f v s (by rw [planWritten_eq htxn]; rfl)
    have hwritten := planWritten_eq htxn v
    generalize planWritten f v s = t at hexec hstation hplan hcond hread hwritten
    refine ⟨t, hexec, ?_, (hread f).trans (fieldByte_withField_same haccepted), fun g hg hrank => ?_, fun hf hv => ?_,
      fun hf hv => ?_, fun m hm => ⟨?_, ?_⟩, ?_, ?_, ?_⟩
    · rw [hwritten]
      rfl
    · rw [hread, hostRead_planField, fieldByte_withField_ne hg hrank]
    · subst hf
      rw [hplan, withField_flags_rank, if_neg (by rw [hv]; decide)]
    · subst hf
      rw [hplan, withField_flags_rank, if_pos hv]
      rfl
    · rw [hplan, withField_records_ne _ _ _ hm]
      rfl
    · rw [hcond, if_neg hm]
    · rw [hcond, if_pos rfl, hplan]
      rfl
    · rw [hstation]
    · rw [hwritten]
      exact ⟨rfl, rfl, rfl, rfl, rfl, rfl, rfl, rfl⟩

end Sys2Proof.Machine

/-! A change of SFn and SDn (R75 to R78), which sets the pins and acts on the condition timer or on the debounced
condition of its service, and START (R78, R106), which debounces every condition in a station that holds and claims
nothing. -/

namespace Sys2Proof.Machine

/-! ## The condition timer at a change of the raw condition (R76, R77) -/

/-- The condition with the levels of SFn and SDn and the raw condition that they give (R75). -/
def ServiceCondition.pinned (c : ServiceCondition) (sf sd : Bool) : ServiceCondition :=
  { c with sf := sf, sd := sd, raw := rawOf sf sd }

/-- The state with the levels of SFn and SDn taken, and the condition timer not yet acted on. -/
def pinsTaken (n : Service) (sf sd : Bool) (s : State) : State := putCondition n ((s.condition n).pinned sf sd) s

/-- The condition with its timer started, restarted or removed (R76). -/
def ServiceCondition.timed (c : ServiceCondition) (timer : Option Nat) : ServiceCondition := { c with timer := timer }

theorem putCondition_putCondition (n : Service) (c d : ServiceCondition) (s : State) :
    putCondition n d (putCondition n c s) = putCondition n d s := by
  simp only [putCondition, place, Vector.set_set]

section
variable {n : Service} {s : State}

theorem rawChanged_of_equal (h : (s.condition n).raw = (s.condition n).debounced) :
    rawChanged n s = putCondition n ((s.condition n).timed none) s := if_pos h

theorem Condition.ne_of_worse {a b : Condition} (h : a.worse b = true) : a ≠ b := by
  rintro rfl
  exact absurd (of_decide_eq_true h) (lt_irrefl _)

theorem Condition.not_worse_of_worse {a b : Condition} (h : a.worse b = true) : ¬b.worse a = true := fun hba =>
  absurd (of_decide_eq_true h) (lt_asymm (of_decide_eq_true hba))

theorem holdOffMs_eq_zero (p : PlanRecord) : p.holdOffMs = 0 ↔ p.holdOff = 0 := by
  unfold PlanRecord.holdOffMs
  rw [Nat.mul_eq_zero, BitVec.toNat_eq]
  simp

/-- A worse condition waits for the hold-off (R76). -/
theorem rawChanged_held_off (h : (s.condition n).raw.worse (s.condition n).debounced = true)
    (hhold : (s.planOf n).holdOff ≠ 0) :
    rawChanged n s = putCondition n ((s.condition n).timed (some (s.planOf n).holdOffMs)) s := by
  simp only [rawChanged]
  rw [if_neg (Condition.ne_of_worse h), if_pos h, if_neg (mt (holdOffMs_eq_zero _).1 hhold)]
  rfl

/-- With a hold-off of 0 a worse condition takes effect at once (R77). -/
theorem rawChanged_at_once (h : (s.condition n).raw.worse (s.condition n).debounced = true)
    (hhold : (s.planOf n).holdOff = 0) : rawChanged n s = changeCondition n (s.condition n).settle s := by
  simp only [rawChanged]
  rw [if_neg (Condition.ne_of_worse h), if_pos h, if_pos ((holdOffMs_eq_zero _).2 hhold)]
  rfl

theorem rawChanged_of_better (h : (s.condition n).debounced.worse (s.condition n).raw = true) :
    rawChanged n s =
      putCondition n ((s.condition n).timed (some (max (s.planOf n).holdOffMs Config.improveMinimum))) s := by
  simp only [rawChanged]
  rw [if_neg (Condition.ne_of_worse h).symm, if_neg (Condition.not_worse_of_worse h)]
  rfl

/-- What a change of the raw condition may do: set the timer, or debounce the condition at once (R76, R77). -/
theorem rawChanged_cases (n : Service) (s : State) :
    (∃ timer, rawChanged n s = putCondition n ((s.condition n).timed timer) s) ∨
      rawChanged n s = changeCondition n (s.condition n).settle s := by
  simp only [rawChanged]
  split
  · exact .inl ⟨_, rfl⟩
  · split
    · split
      · exact .inr rfl
      · exact .inl ⟨_, rfl⟩
    · exact .inl ⟨_, rfl⟩

end

/-! ## SFn and SDn (R75) -/

/-- From `s` to `t` the pins and the raw condition of service `n` stand, with the conditions of the other services and
every block that a change of a condition does not reach. -/
structure State.PinsKept (n : Service) (s t : State) : Prop where
  sf : (t.condition n).sf = (s.condition n).sf
  sd : (t.condition n).sd = (s.condition n).sd
  raw : (t.condition n).raw = (s.condition n).raw
  others : ∀ m, m ≠ n → t.condition m = s.condition m
  timebase : t.timebase = s.timebase
  peers : t.peers = s.peers
  station : t.station = s.station
  rx : t.rx = s.rx
  pending : t.pending = s.pending
  rstLow : t.rstLow = s.rstLow

section
variable {n : Service} {sf sd : Bool} {s : State}

theorem changeCondition_pinsKept {c : ServiceCondition} (hsf : c.sf = (s.condition n).sf)
    (hsd : c.sd = (s.condition n).sd) (hraw : c.raw = (s.condition n).raw) :
    s.PinsKept n (changeCondition n c s) := by
  have hstep := (changeCondition_entryStep n c s).owner
  have hcond := changeCondition_condition n c s
  exact ⟨by rw [hcond]; exact hsf, by rw [hcond]; exact hsd, by rw [hcond]; exact hraw,
    fun _ hm => changeCondition_condition_ne hm, hstep.timebase, hstep.peers, hstep.station, hstep.rx, hstep.pending,
    hstep.rstLow⟩

theorem putCondition_pinsKept {c : ServiceCondition} (hsf : c.sf = (s.condition n).sf)
    (hsd : c.sd = (s.condition n).sd) (hraw : c.raw = (s.condition n).raw) : s.PinsKept n (putCondition n c s) :=
  ⟨by simpa using hsf, by simpa using hsd, by simpa using hraw, fun _ hm => putCondition_condition_ne _ _ hm,
    rfl, rfl, rfl, rfl, rfl, rfl⟩

theorem rawChanged_pinsKept (n : Service) (s : State) : s.PinsKept n (rawChanged n s) := by
  rcases rawChanged_cases n s with ⟨timer, h⟩ | h <;> rw [h]
  · exact putCondition_pinsKept rfl rfl rfl
  · exact changeCondition_pinsKept rfl rfl rfl

theorem setPins_quiet (h : rawOf sf sd = (s.condition n).raw ∨ s.station.phase = .config) :
    setPins n sf sd s = pinsTaken n sf sd s := if_neg (by tauto)

theorem setPins_changed (hraw : rawOf sf sd ≠ (s.condition n).raw) (hp : s.station.phase ≠ .config) :
    setPins n sf sd s = rawChanged n (pinsTaken n sf sd s) := if_pos ⟨hraw, hp⟩

theorem setPins_pinsKept (n : Service) (sf sd : Bool) (s : State) :
    (pinsTaken n sf sd s).PinsKept n (setPins n sf sd s) := by
  by_cases h : rawOf sf sd = (s.condition n).raw ∨ s.station.phase = .config
  · rw [setPins_quiet h]
    exact ⟨rfl, rfl, rfl, fun _ _ => rfl, rfl, rfl, rfl, rfl, rfl, rfl⟩
  · rw [setPins_changed (fun hraw => h (.inl hraw)) (fun hp => h (.inr hp))]
    exact rawChanged_pinsKept ..

@[simp] theorem pinsTaken_condition (n : Service) (sf sd : Bool) (s : State) :
    (pinsTaken n sf sd s).condition n = (s.condition n).pinned sf sd := putCondition_condition_same ..

/-- Setting the timer after the pins is one change of the condition. -/
theorem putCondition_pinsTaken (n : Service) (c : ServiceCondition) (sf sd : Bool) (s : State) :
    putCondition n c (pinsTaken n sf sd s) = putCondition n c s := putCondition_putCondition ..

end

/-- Settles O14: the pins are taken first, and the timer or the debounced condition follows by the order of the raw and
the debounced condition. -/
theorem rawConditionChange : Obligations.RawConditionChange := by
  intro n sf sd s
  have hkept := setPins_pinsKept n sf sd s
  have hpins := pinsTaken_condition n sf sd s
  refine ⟨setPins n sf sd s, rfl, by rw [hkept.sf, hpins]; rfl, by rw [hkept.sd, hpins]; rfl,
    by rw [hkept.raw, hpins]; rfl, fun m hm => (hkept.others m hm).trans (putCondition_condition_ne _ _ hm),
    hkept.timebase, hkept.peers, hkept.station, hkept.rx, hkept.pending, hkept.rstLow, setPins_quiet,
    fun hraw hp => ?_⟩
  rw [setPins_changed hraw hp]
  refine ⟨fun heq => ?_, fun hworse hhold => ?_, fun hworse hhold => ?_, fun hbetter => ?_⟩
  · rw [rawChanged_of_equal (by rw [hpins]; exact heq), putCondition_pinsTaken, hpins]
    rfl
  · rw [rawChanged_held_off (s := pinsTaken n sf sd s) (by rw [hpins]; exact hworse) hhold, putCondition_pinsTaken,
      hpins]
    rfl
  · rw [rawChanged_at_once (s := pinsTaken n sf sd s) (by rw [hpins]; exact hworse) hhold, changeCondition_condition,
      hpins]
    rfl
  · rw [rawChanged_of_better (by rw [hpins]; exact hbetter), putCondition_pinsTaken, hpins]
    rfl


/-! ## Entry to LISTEN at one service (R78, R80) -/

section
variable {n : Service} {c : ServiceCondition} {s : State}

/-- In LISTEN a report on a service that this station neither holds nor claims asks for the early STATUS alone (R80). -/
theorem takeReport_listening {old : ServiceCondition} (hp : s.station.phase = .listen)
    (hs : (s.entry n).state = .vacant) : takeReport n old s = statusQueued s := by
  rw [takeReport, evaluate_of_not_active (by simp [hp]), withdrawIfDue_of_no_claim (by simp [hs]),
    releaseIfLocked_of_not_held (by simp [hs]), reportStatus, if_pos (.inl hp)]
  exact enqueue_of_sends (by rw [hp]; rfl) _

theorem updateCondition_listening (hp : s.station.phase = .listen) (hs : (s.entry n).state = .vacant) :
    updateCondition n c s = formedState n c s ∨ updateCondition n c s = statusQueued (gradePosted n c s) := by
  by_cases h : c.SameReport (s.planOf n) (s.condition n)
  · exact .inl (updateCondition_same h)
  · refine .inr ((updateCondition_changed h).trans (takeReport_listening ?_ ?_))
    · rw [(gradePosted_step n c s).station]
      exact hp
    · rw [gradePosted_entry]
      exact hs

theorem gradePosted_posts (n : Service) (c : ServiceCondition) (s : State) : s.Posts 1 (gradePosted n c s) := by
  rcases postGrade_cases n (s.condition n).grade (formedState n c s) with h | h
  · rw [gradePosted, h]
    exact .none rfl
  · rw [gradePosted, h]
    exact .quiet_before (t := formedState n c s) rfl (post_posts (by decide) ..)

end

/-! ## Entry to LISTEN at several services (R78) -/

/-- From `s` to `t` the conditions of the services `ns` have been debounced and their grades formed anew, in a station
in LISTEN that holds and claims nothing: a STATUS that is queued stays queued, and each service posts one event at
most. -/
structure State.Listened (ns : List Service) (s t : State) : Prop where
  settled : ∀ n ∈ ns, t.condition n = (s.condition n).settle.formed (s.planOf n)
  others : ∀ n, n ∉ ns → t.condition n = s.condition n
  oc : t.oc = s.oc
  peers : t.peers = s.peers
  timebase : t.timebase = s.timebase
  station : t.station = s.station
  rx : t.rx = s.rx
  pending : t.pending = s.pending
  rstLow : t.rstLow = s.rstLow
  host : t.host = { s.host with events := t.host.events, lost := t.host.lost, irq := t.host.irq }
  status : s.tx.queue.status = true → t.tx.queue.status = true
  posts : s.Posts ns.length t

theorem State.Listened.nil (s : State) : s.Listened [] s :=
  ⟨by simp, fun _ _ => rfl, rfl, rfl, rfl, rfl, rfl, rfl, rfl, rfl, id, .none rfl⟩

theorem State.Listened.cons {n : Service} {ns : List Service} {s t u : State} (hn : n ∉ ns) (h : s.Listened [n] t)
    (k : t.Listened ns u) : s.Listened (n :: ns) u where
  settled := fun m hm => by
    rcases List.mem_cons.1 hm with rfl | hm
    · rw [k.others m hn, h.settled m (List.mem_singleton_self m)]
    · have hne : m ∉ [n] := fun hmn => hn (List.mem_singleton.1 hmn ▸ hm)
      rw [k.settled m hm, h.others m hne, State.planOf, h.station]
      rfl
  others := fun m hm => by
    have hmn : m ∉ [n] := fun hmem => hm (List.mem_singleton.1 hmem ▸ List.mem_cons_self)
    rw [k.others m (fun hmem => hm (List.mem_cons_of_mem n hmem)), h.others m hmn]
  oc := k.oc.trans h.oc
  peers := k.peers.trans h.peers
  timebase := k.timebase.trans h.timebase
  station := k.station.trans h.station
  rx := k.rx.trans h.rx
  pending := k.pending.trans h.pending
  rstLow := k.rstLow.trans h.rstLow
  host := by rw [k.host, h.host]
  status := fun hs => k.status (h.status hs)
  posts := (h.posts.trans k.posts).le (by simp [Nat.add_comm])

theorem listenEntry_listened {n : Service} {s : State} (hp : s.station.phase = .listen)
    (hs : (s.entry n).state = .vacant) : s.Listened [n] (listenEntry n s) := by
  have hformed : ∀ m, (formedState n (s.condition n).settle s).condition m =
      if m = n then (s.condition n).settle.formed (s.planOf n) else s.condition m := fun m =>
    putCondition_condition n m _ s
  have hstep := gradePosted_step n (s.condition n).settle s
  have hsettled : ∀ t : State, (∀ m, t.condition m = (formedState n (s.condition n).settle s).condition m) →
      (∀ m ∈ [n], t.condition m = (s.condition m).settle.formed (s.planOf m)) ∧
        ∀ m, m ∉ [n] → t.condition m = s.condition m := by
    refine fun t ht => ⟨fun m hm => ?_, fun m hm => ?_⟩
    · obtain rfl := List.mem_singleton.1 hm
      rw [ht, hformed, if_pos rfl]
    · rw [ht, hformed, if_neg (fun h => hm (List.mem_singleton.2 h))]
  rcases updateCondition_listening (c := (s.condition n).settle) hp hs with h | h
  · rw [show listenEntry n s = _ from h]
    obtain ⟨hn, hothers⟩ := hsettled _ fun _ => rfl
    exact ⟨hn, hothers, rfl, rfl, rfl, rfl, rfl, rfl, rfl, rfl, id, .none rfl⟩
  · rw [show listenEntry n s = _ from h]
    obtain ⟨hn, hothers⟩ := hsettled (statusQueued (gradePosted n (s.condition n).settle s)) hstep.condition
    exact ⟨hn, hothers, gradePosted_oc, hstep.peers, hstep.timebase, hstep.station, hstep.rx, hstep.pending,
      hstep.rstLow, hstep.host, fun _ => rfl, (gradePosted_posts ..).quiet_after rfl⟩

theorem foldl_listenEntry_listened : ∀ {ns : List Service} {s : State}, ns.Nodup → s.station.phase = .listen →
    (∀ n, (s.entry n).state = .vacant) → s.Listened ns (ns.foldl (fun s n => listenEntry n s) s)
  | [], s, _, _, _ => .nil s
  | n :: _, _, hnd, hp, hs => by
    obtain ⟨hn, hnd⟩ := List.nodup_cons.1 hnd
    have h := listenEntry_listened hp (hs n)
    refine .cons hn h (foldl_listenEntry_listened hnd ?_ fun m => ?_)
    · rw [h.station]
      exact hp
    · rw [entry_of_oc h.oc]
      exact hs m

theorem forEach_listenEntry_listened {s : State} (hp : s.station.phase = .listen)
    (hs : ∀ n, (s.entry n).state = .vacant) : s.Listened allSixteen (forEach listenEntry s) :=
  foldl_listenEntry_listened allSixteen_nodup hp hs

/-! ## START (R106) -/

/-- The Station Controller and the receiver at START, with the STATUS queued, before the conditions are debounced
(R106, steps 1 to 4). -/
def startBegun (s : State) : State :=
  statusQueued
    ((s.withStation
      { s.station with
        checksum := planChecksum s.station.plan, phase := .listen, listenTimer := some Config.listen
        statusTimer := some Config.statusPeriod }).withRx (s.rx.idled true))

/-- The state of START before its event: the conditions debounced, and the head taken by a READY Transmitter. -/
def startListening (s : State) : State := takeNext (forEach listenEntry (startBegun s))

theorem startStation_eq (s : State) :
    startStation s = post .phaseChanged none none none (some (.phase .listen)) (startListening s) := by
  unfold startListening startBegun
  rw [statusQueued, ← enqueue_of_sends rfl]
  rfl

/-- What START leaves of the blocks (R78, R106, R129). -/
structure State.Started (s t : State) : Prop where
  station : t.station =
    { s.station with
      checksum := planChecksum s.station.plan, phase := .listen, listenTimer := some 60, statusTimer := some 4 }
  rx : t.rx = s.rx.idled true
  condition : ∀ n, t.condition n = (s.condition n).settle.formed (s.planOf n)
  oc : t.oc = s.oc
  peers : t.peers = s.peers
  timebase : t.timebase = s.timebase
  pending : t.pending = s.pending
  rstLow : t.rstLow = s.rstLow
  status : t.StatusWaits
  host : t.host = { s.host with events := t.host.events, lost := t.host.lost, irq := t.host.irq }

section
variable {s : State} (hs : ∀ n, (s.entry n).state = .vacant)
include hs

theorem startBegun_listened : (startBegun s).Listened allSixteen (forEach listenEntry (startBegun s)) :=
  forEach_listenEntry_listened rfl hs

theorem startListening_started : s.Started (startListening s) := by
  have h := startBegun_listened hs
  have hstep := takeNext_step (forEach listenEntry (startBegun s))
  exact
    { station := hstep.station.trans h.station
      rx := hstep.rx.trans h.rx
      condition := fun n => (hstep.condition n).trans (h.settled n (mem_allSixteen n))
      oc := (takeNext_oc _).trans h.oc
      peers := hstep.peers.trans h.peers
      timebase := hstep.timebase.trans h.timebase
      pending := hstep.pending.trans h.pending
      rstLow := hstep.rstLow.trans h.rstLow
      status := takeNext_statusWaits (h.status rfl)
      host := by
        rw [startListening, takeNext_host]
        exact h.host }

theorem startStation_started : s.Started (startStation s) := by
  obtain ⟨hstation, hrx, hcond, hoc, hpeers, htime, hpending, hrst, hstatus, hhost⟩ := startListening_started hs
  rw [startStation_eq]
  generalize startListening s = u at hstation hrx hcond hoc hpeers htime hpending hrst hstatus hhost ⊢
  exact ⟨hstation, hrx, hcond, hoc, hpeers, htime, hpending, hrst, hstatus, by rw [post_host_fields, hhost]⟩

/-- PHASE_CHANGED is the last event of START, after sixteen changes of a grade at most (R103, R106). -/
theorem startStation_last (h : s.CanRecord 17) :
    (startStation s).host.events.getLast? = some (s.event .phaseChanged none none none (some (.phase .listen))) := by
  have hroom : (startListening s).CanRecord 1 :=
    State.CanRecord.of_host ((startBegun_listened hs).posts.room 1 (h.of_host rfl)) (takeNext_host _)
  rw [startStation_eq, State.CanRecord.post_events (k := 0) _ _ _ _ _ hroom, List.getLast?_concat]
  simp only [State.event, (startListening_started hs).timebase]

end

theorem exec_start {s : State} (htxn : s.host.txn = .data .write (.at 0x0D)) (hp : s.station.phase = .config)
    (hstarted : (storeCode 1 s).Started (startStation (storeCode 1 s))) :
    exec .start s = .next (answeredDone (startStation (storeCode 1 s))) := by
  have hcommand : commandStart (storeCode 1 s) = setResult .done (startStation (storeCode 1 s)) := if_pos hp
  have hmove : (startStation (storeCode 1 s)).host.txn = .data .write (.at 0x0D) := by
    rw [hstarted.host]
    exact htxn
  have htake : takeCommand .start s = moveAddress (.at addrCode) (commandStart (storeCode 1 s)) :=
    dataByte_of_write htxn _
  rw [hcommand, moveAddress_done hmove] at htake
  exact congrArg Host.Outcome.next htake

/-- Settles O47: START debounces the conditions one service after another, in a table that CONFIG left VACANT, and takes
the head of the queue and posts its event after that. -/
theorem startEntersListen : Obligations.StartEntersListen := by
  intro s htxn hp hblocks
  have hs : ∀ n, ((storeCode 1 s).entry n).state = .vacant := fun n => (hblocks.configTable hp n).1
  have hstarted := startStation_started hs
  have hlast := fun hrec : (storeCode 1 s).CanRecord 17 => startStation_last hs hrec
  have hexec := exec_start htxn hp hstarted
  generalize startStation (storeCode 1 s) = u at hexec hstarted hlast
  have hcode : u.host.code = 1 := by
    rw [hstarted.host]
    rfl
  refine ⟨answeredDone u, hexec, hstarted.station, hstarted.rx, fun n => (hstarted.condition n).trans ?_, hstarted.oc,
    hstarted.peers, hstarted.timebase, hstarted.pending, hstarted.rstLow, hstarted.status, rfl, hcode, rfl, hlast⟩
  show (s.condition n).settle.formed (s.planOf n) = _
  simp only [ServiceCondition.formed, ServiceCondition.settle, ← hblocks.classes n]

end Sys2Proof.Machine

/-! CLEAR_COUNTERS (R100, R128, R146, R150), and a frame at the Peer Monitor: the sequence step (R90), the plan checksum
(R89), the delivery to the Ownership Controller (R87, R95), and a silence timer that runs out (R96). -/

namespace Sys2Proof.Machine

/-! ## CLEAR_COUNTERS -/

theorem exec_clearCounters {s : State} (h : s.host.txn = .data .write (.at 0x0D)) :
    exec .clearCounters s = .next (moveAddress (.at addrCode) (clearCounters (storeCode 0x20 s))) :=
  congrArg Host.Outcome.next (dataByte_of_write h _)

theorem clearCounters_peer (s : State) (p : StationId) :
    (clearCounters s).peer p = { s.peer p with accepted := 0, lost := 0, duplicates := 0 } := look_tabulate ..

/-- Settles O54: the blocks are those of `clearCounters`; the Host Port takes the code, the result and the address. -/
theorem clearCountersClears : Obligations.ClearCountersClears := by
  intro s htxn
  refine ⟨_, exec_clearCounters htxn, ?_⟩
  rw [moveAddress_code (s := clearCounters (storeCode 0x20 s)) htxn]
  refine ⟨rfl, rfl, clearCounters_peer (storeCode 0x20 s), rfl, rfl, ?_⟩
  simp [clearCounters, setResult, storeCode]

/-! ## Other peers

A frame of one peer and its silence leave the Peer Table entry of every other peer (R88, R96). -/

/-- The Peer Table entry of every station but `p` is as before. -/
structure State.OtherPeers (s t : State) (p : StationId) : Prop where
  peer : ∀ q, q ≠ p → t.peer q = s.peer q

section
variable {p : StationId} {s t u : State}

protected theorem State.OtherPeers.trans (h : s.OtherPeers t p) (k : t.OtherPeers u p) : s.OtherPeers u p :=
  ⟨fun q hq => (k.peer q hq).trans (h.peer q hq)⟩

protected theorem State.OtherPeers.refl (s : State) (p : StationId) : s.OtherPeers s p := ⟨fun _ _ => rfl⟩

theorem OwnerStep.otherPeers (h : OwnerStep s t) (p : StationId) : s.OtherPeers t p := ⟨fun q _ => h.peer q⟩

theorem putPeer_otherPeers (p : StationId) (e : PeerEntry) (s : State) : s.OtherPeers (putPeer p e s) p :=
  ⟨fun _ hq => putPeer_peer_ne e s hq⟩

theorem refreshIsolated_otherPeers (j : Option StationId) (s : State) (p : StationId) :
    s.OtherPeers (refreshIsolated j s) p :=
  ⟨fun q _ => refreshIsolated_peer j s q⟩

theorem arrive_otherPeers (body : FrameBody) : s.OtherPeers (arrive p body s) p := by
  simp only [arrive]
  split
  · exact (putPeer_otherPeers ..).trans ((requestStatus_step _).otherPeers p)
  · exact putPeer_otherPeers ..

theorem becomeLive_otherPeers : s.OtherPeers (becomeLive p s) p :=
  ((putPeer_otherPeers ..).trans ((post_step ..).otherPeers p)).trans (refreshIsolated_otherPeers ..)

theorem stateStep_otherPeers (body : FrameBody) (follows : Bool) : s.OtherPeers (stateStep p body follows s) p := by
  simp only [stateStep]
  split
  · split
    · exact becomeLive_otherPeers
    · exact putPeer_otherPeers ..
  · exact .refl ..
  · exact .refl ..
  · exact arrive_otherPeers body
  · exact arrive_otherPeers body
  · exact arrive_otherPeers body

theorem replaceData_otherPeers (body : FrameBody) : s.OtherPeers (replaceData p body s) p := by
  cases body with
  | status b => exact putPeer_otherPeers ..
  | claim c => exact .refl ..
  | release xs => exact .refl ..
  | object xs => exact .refl ..

theorem depart_otherPeers : s.OtherPeers (depart p s) p :=
  (((putPeer_otherPeers ..).trans ((post_step ..).otherPeers p)).trans (refreshIsolated_otherPeers ..)).trans
    (((reportDeparture_step ..).trans (reportFlag_step ..)).otherPeers p)

theorem takeData_otherPeers (body : FrameBody) (follows : Bool) : s.OtherPeers (takeData p body follows s) p := by
  have hdelivery : s.OtherPeers (delivery p body follows s) p :=
    ((stateStep_otherPeers ..).trans (replaceData_otherPeers ..)).trans ((delivery_step ..).otherPeers p)
  rw [takeData_eq, departIfLeaving]
  split
  · exact hdelivery.trans depart_otherPeers
  · exact hdelivery

end

/-! ## The sequence step (R90) -/

/-- What the steps after the sequence step leave of a peer's entry: the last sequence, the checksum seen and the
counters. -/
structure PeerEntry.SameCounts (a b : PeerEntry) : Prop where
  lastSeq : b.lastSeq = a.lastSeq
  checksumSeen : b.checksumSeen = a.checksumSeen
  accepted : b.accepted = a.accepted
  lost : b.lost = a.lost
  duplicates : b.duplicates = a.duplicates

section
variable {e : PeerEntry} {f : Frame} {s : State}

protected theorem PeerEntry.SameCounts.trans {a b c : PeerEntry} (h : a.SameCounts b) (k : b.SameCounts c) :
    a.SameCounts c :=
  ⟨k.lastSeq.trans h.lastSeq, k.checksumSeen.trans h.checksumSeen, k.accepted.trans h.accepted, k.lost.trans h.lost,
    k.duplicates.trans h.duplicates⟩

theorem restartSilence_sameCounts (e : PeerEntry) : e.SameCounts e.restartSilence := by
  unfold PeerEntry.restartSilence
  split <;> exact ⟨rfl, rfl, rfl, rfl, rfl⟩

theorem stepped_sameCounts (e : PeerEntry) (body : FrameBody) (follows : Bool) :
    e.SameCounts (e.stepped body follows) := by
  unfold PeerEntry.stepped
  split
  · split <;> exact ⟨rfl, rfl, rfl, rfl, rfl⟩
  all_goals exact ⟨rfl, rfl, rfl, rfl, rfl⟩

theorem publishing_sameCounts (e : PeerEntry) (body : FrameBody) : e.SameCounts (e.publishing body) := by
  cases body <;> exact ⟨rfl, rfl, rfl, rfl, rfl⟩

theorem departed_sameCounts (e : PeerEntry) : e.SameCounts e.departed := ⟨rfl, rfl, rfl, rfl, rfl⟩

theorem delivered_sameCounts (e : PeerEntry) (f : Frame) :
    PeerEntry.SameCounts (PeerEntry.takeSeq { e with checksumSeen := some f.checksum } f.seq) (e.delivered f) :=
  ((restartSilence_sameCounts _).trans (stepped_sameCounts ..)).trans (publishing_sameCounts ..)

/-- Sequence numbers missing between two that stand, mod 256 (R90). -/
theorem missing_toNat (q last : Byte) : (q - last - 1).toNat = (q.toNat + 255 - last.toNat) % 256 := by
  bv_omega

theorem takeSeq_lost_of_last {last : Byte} (h : e.lastSeq = some last) (q : Byte) :
    (e.takeSeq q).lost = satAdd e.lost ((q.toNat + 255 - last.toNat) % 256) := by
  simp only [PeerEntry.takeSeq, h, missing_toNat]

theorem takeSeq_lost_of_none (h : e.lastSeq = none) (q : Byte) : (e.takeSeq q).lost = e.lost := by
  simp only [PeerEntry.takeSeq, h]

theorem takeFrame_duplicate (hc : f.checksum = s.station.checksum) (hq : (s.peer f.sender).lastSeq = some f.seq) :
    takeFrame f s =
      putPeer f.sender
        { s.peer f.sender with
          checksumSeen := some f.checksum, duplicates := satInc (s.peer f.sender).duplicates } s := by
  simp only [takeFrame, putPeer_peer_same, putPeer_putPeer]
  rw [if_neg (not_not_intro hc), if_pos hq]

theorem takeFrame_sameCounts (hc : f.checksum = s.station.checksum) (hq : (s.peer f.sender).lastSeq ≠ some f.seq) :
    PeerEntry.SameCounts (PeerEntry.takeSeq { s.peer f.sender with checksumSeen := some f.checksum } f.seq)
      ((takeFrame f s).peer f.sender) := by
  rw [takeFrame_peer hc hq]
  split
  · exact (delivered_sameCounts ..).trans (departed_sameCounts _)
  · exact delivered_sameCounts ..

theorem takeFrame_otherPeers (hc : f.checksum = s.station.checksum) (hq : (s.peer f.sender).lastSeq ≠ some f.seq) :
    s.OtherPeers (takeFrame f s) f.sender := by
  rw [takeFrame_accepted hc hq]
  exact (putPeer_otherPeers ..).trans (takeData_otherPeers ..)

end

/-- Settles O36: the steps after the sequence step leave the sequence and the counters as it set them. -/
theorem sequenceStep : Obligations.SequenceStep := by
  intro f s hc
  refine ⟨takeFrame_duplicate hc, fun hq => ?_⟩
  have hkept := takeFrame_sameCounts hc hq
  exact ⟨hkept.lastSeq, hkept.checksumSeen, hkept.accepted, hkept.duplicates,
    fun hnone => hkept.lost.trans (takeSeq_lost_of_none hnone _),
    fun last hlast => hkept.lost.trans (takeSeq_lost_of_last hlast _), (takeFrame_otherPeers hc hq).peer⟩

/-! ## A peer's entry changed and reported (R27, R69, R98) -/

/-- From `s` to `t` the entry of peer `p` becomes `e`, and the change is announced, the isolated flag follows and the
Ownership Controller takes the reports: the other peers and the blocks that take no report are as before, and events are
appended alone. -/
structure State.PeerBecomes (p : StationId) (e : PeerEntry) (s t : State) : Prop where
  peer : t.peer p = e
  others : s.OtherPeers t p
  clashCount : t.peers.clashCount = s.peers.clashCount
  timebase : t.timebase = s.timebase
  cond : t.cond = s.cond
  station : t.station = s.station
  rx : t.rx = s.rx
  pending : t.pending = s.pending
  rstLow : t.rstLow = s.rstLow
  grow : s.host.events <+: t.host.events

section
variable {p : StationId} {e : PeerEntry} {s t u : State}

theorem putPeer_becomes (p : StationId) (e : PeerEntry) (s : State) : s.PeerBecomes p e (putPeer p e s) :=
  ⟨putPeer_peer_same .., putPeer_otherPeers .., rfl, rfl, rfl, rfl, rfl, rfl, rfl, List.prefix_rfl⟩

theorem State.PeerBecomes.ownerStep (h : s.PeerBecomes p e t) (k : OwnerStep t u)
    (hgrow : t.host.events <+: u.host.events) : s.PeerBecomes p e u where
  peer := (k.peer p).trans h.peer
  others := h.others.trans (k.otherPeers p)
  clashCount := (congrArg PeerMonitor.clashCount k.peers).trans h.clashCount
  timebase := k.timebase.trans h.timebase
  cond := k.cond.trans h.cond
  station := k.station.trans h.station
  rx := k.rx.trans h.rx
  pending := k.pending.trans h.pending
  rstLow := k.rstLow.trans h.rstLow
  grow := h.grow.trans hgrow

theorem State.PeerBecomes.refreshed (h : s.PeerBecomes p e t) : s.PeerBecomes p e t.refreshed :=
  { h with others := ⟨h.others.peer⟩ }

theorem State.PeerBecomes.post (h : s.PeerBecomes p e t) (kind : EventKind) (n : Option Service) (q : Option StationId)
    (x : Option Epoch) (d : Option Detail) : s.PeerBecomes p e (post kind n q x d t) :=
  h.ownerStep (post_step ..) (post_events_grow ..)

theorem State.PeerBecomes.flagFollows (h : s.PeerBecomes p e t) (j : Option StationId) :
    s.PeerBecomes p e (refreshIsolated j t) :=
  h.refreshed.ownerStep (refreshIsolated_step j t) (refreshIsolated_posts j t).grow

theorem State.PeerBecomes.reported (h : s.PeerBecomes p e t) (q : StationId) :
    s.PeerBecomes p e (reportPeerState q t) :=
  h.ownerStep (reportPeerState_step q t) (reportPeerState_posts q t).grow

theorem State.PeerBecomes.flagReported (h : s.PeerBecomes p e t) (b : Bool) : s.PeerBecomes p e (reportFlag b t) :=
  h.ownerStep (reportFlag_step b t) (reportFlag_posts b t).grow

/-- The flag follows, and both changes are reported. -/
theorem State.PeerBecomes.settled (h : s.PeerBecomes p e t) (b : Bool) :
    s.PeerBecomes p e (reportFlag b (reportPeerState p (refreshIsolated none t))) :=
  ((h.flagFollows none).reported p).flagReported b

/-- An event posted before the flag follows and the reports go out comes first. -/
theorem post_then_settled_first {kind : EventKind} {x : Option StationId} (b : Bool) (ht : t.host = s.host)
    (htime : t.timebase = s.timebase) (hrec : s.CanRecord 1) :
    s.host.events ++ [s.event kind none x none none] <+:
      (reportFlag b (reportPeerState p (refreshIsolated none (post kind none x none none t)))).host.events := by
  have hposted := State.CanRecord.post_events (s := t) (k := 0) kind none x none none (hrec.of_host ht)
  have hevent : t.event kind none x none none = s.event kind none x none none := by simp only [State.event, htime]
  rw [ht, hevent] at hposted
  rw [← hposted]
  exact ((refreshIsolated_posts none _).trans ((reportPeerState_posts p _).trans (reportFlag_posts b _))).grow

end

/-! ## Another plan checksum (R89) -/

/-- The entry of a peer whose frame carries another plan checksum than this station's (R89, case 2). -/
def PeerEntry.mismatched (e : PeerEntry) (f : Frame) : PeerEntry :=
  { e with
    state := .incompatible, lastSeq := none, silence := some 20, inOrder := 0, data := none
    checksumSeen := some f.checksum }

section
variable {f : Frame} {s : State} (hc : f.checksum ≠ s.station.checksum)
include hc

theorem takeFrame_mismatch :
    takeFrame f s =
      takeMismatch f.sender (putPeer f.sender { s.peer f.sender with checksumSeen := some f.checksum } s) :=
  if_pos hc

theorem takeFrame_stays_incompatible (hs : (s.peer f.sender).state = .incompatible) :
    takeFrame f s =
      putPeer f.sender { s.peer f.sender with checksumSeen := some f.checksum, silence := some 20 } s := by
  rw [takeFrame_mismatch hc, takeMismatch, putPeer_peer_same, if_pos hs, putPeer_putPeer]
  rfl

theorem takeFrame_becomes_incompatible (hs : (s.peer f.sender).state ≠ .incompatible) :
    takeFrame f s =
      reportFlag s.peers.isolated
        (reportPeerState f.sender
          (refreshIsolated none
            (post .peerIncompatible none (some f.sender) none none
              (putPeer f.sender ((s.peer f.sender).mismatched f) s)))) := by
  rw [takeFrame_mismatch hc, takeMismatch, putPeer_peer_same, if_neg hs, becomeIncompatible]
  simp only [putPeer_peer_same, putPeer_putPeer]
  rfl

end

/-- Settles O37: the first frame that differs changes the sender's entry before anything is posted or reported. -/
theorem checksumMismatch : Obligations.ChecksumMismatch := by
  intro f s hc
  refine ⟨takeFrame_stays_incompatible hc, fun hs => ?_⟩
  rw [takeFrame_becomes_incompatible hc hs]
  have hbecomes := ((putPeer_becomes f.sender ((s.peer f.sender).mismatched f) s).post .peerIncompatible none
    (some f.sender) none none).settled s.peers.isolated
  exact ⟨hbecomes.peer, hbecomes.others.peer, hbecomes.timebase, hbecomes.cond, hbecomes.station, hbecomes.rx,
    post_then_settled_first _ rfl rfl⟩

/-! ## The delivery of a LIVE peer's frame (R87, R95) -/

theorem look_marksOf (old : Option StatusBody) (new : StatusBody) (n : Service) :
    look (marksOf old new) n = true ↔ ∀ b, old = some b → look b.services n ≠ look new.services n := by
  rw [marksOf, look_tabulate]
  cases old with
  | none => simp
  | some b => simp

/-- The entry of a LIVE peer after the sequence and silence steps (R90, R91). -/
theorem taken_of_live {e : PeerEntry} {f : Frame} {last : Byte} (hs : e.state = .live) (hl : e.lastSeq = some last) :
    e.taken f =
      { e with
        lastSeq := some f.seq, checksumSeen := some f.checksum, silence := some 20
        accepted := satInc e.accepted, lost := satAdd e.lost ((f.seq.toNat + 255 - last.toNat) % 256) } := by
  simp only [PeerEntry.taken, PeerEntry.restartSilence, PeerEntry.takeSeq, hs, hl, missing_toNat]
  rfl

section
variable {p : StationId} {body : FrameBody} {s : State}

/-- The state of a LIVE peer does not change, so that nothing is reported before the delivery (R93, R95). -/
theorem takeData_of_live (hs : (s.peer p).state = .live) (hb : body.isLeaving = false) (follows : Bool) :
    takeData p body follows s = deliver p body (frameMarks (s.peer p).data body) (replaceData p body s) := by
  simp only [takeData, stateStep, PeerEntry.stateChanges, hs, departIfLeaving, hb, reportChange, Bool.false_eq_true,
    if_false]

theorem takeFrame_of_live {f : Frame} {last : Byte} {e : PeerEntry} (hc : f.checksum = s.station.checksum)
    (hs : (s.peer f.sender).state = .live) (hl : (s.peer f.sender).lastSeq = some last) (hq : last ≠ f.seq)
    (he : (s.peer f.sender).taken f = e) (hb : f.body.isLeaving = false) :
    takeFrame f s =
      deliver f.sender f.body (frameMarks e.data f.body) (replaceData f.sender f.body (putPeer f.sender e s)) := by
  have hnew : (s.peer f.sender).lastSeq ≠ some f.seq := by
    rw [hl]
    exact fun h => hq (Option.some.inj h)
  have hlive : e.state = .live := by rw [← he, taken_state, hs]
  rw [takeFrame_accepted hc hnew, he, takeData_of_live (by rw [putPeer_peer_same]; exact hlive) hb, putPeer_peer_same]

end

/-- Settles O39: a LIVE peer's frame passes the state step and the reports unchanged, and is delivered by its kind. -/
theorem framesAreDelivered : Obligations.FramesAreDelivered := by
  intro f s last hc hs hl hq e
  have hframe := takeFrame_of_live hc hs hl hq (taken_of_live hs hl)
  refine ⟨fun c hb => ?claim, fun xs hb => ?release, fun xs hb => ?object, fun b hb hleave => ?status⟩
  case claim =>
    rw [hb] at hframe
    exact hframe rfl
  case release =>
    rw [hb] at hframe
    exact hframe rfl
  case object =>
    rw [hb] at hframe
    exact hframe rfl
  case status =>
    rw [hb] at hframe
    refine ⟨marksOf e.data b, look_marksOf e.data b, (hframe (decide_eq_false hleave)).trans ?_⟩
    simp only [deliver, frameMarks, replaceData, putPeer_peer_same, putPeer_putPeer]
    rfl

/-! ## A silence timer that runs out (R96) -/

/-- The entry of a peer that has fallen silent (R96). -/
def PeerEntry.silenced (e : PeerEntry) : PeerEntry :=
  { e with state := if e.state = .incompatible then .absent else .silent, inOrder := 0, silence := none }

/-- What outside ACTIVE the report that peer `p` is not LIVE makes of an entry `a` at time `now` (R27, R69). -/
structure ServiceEntry.Silenced (p : StationId) (now : Word16) (a b : ServiceEntry) : Prop where
  orphaned : a.record = none → a.owner = some p → a.state = .remote →
    b = { a with state := .orphaned, changed := now }
  watched : ∀ r, a.record = some r → r.claimant = p → b.record = none ∧ b.owner = a.owner ∧ b.epoch = a.epoch
  other : a.record = none → a.owner ≠ some p → b = a

section
variable {p : StationId} {s t : State}

theorem settleForPeer_silenced (hl : s.isLive p = false) (n : Service) :
    (s.entry n).Silenced p s.timebase ((settleForPeer p n s).entry n) where
  orphaned hr ho hs := by
    have hsettled : s.settledState (some p) = .orphaned := by simp only [State.settledState, hl]; rfl
    simp only [settleForPeer, hr]
    rw [if_pos ⟨ho, by rw [hs]; decide⟩, changeEntry_entry_same, ho, hsettled,
      stamp_of_changed (.inl (by simp [hs]))]
  watched r hr hp := by
    simp only [settleForPeer, hr]
    rw [if_pos ⟨hp, hl⟩, dropRecord_eq, putEntry_entry_same]
    exact ⟨stamp_record .., stamp_owner .., stamp_epoch ..⟩
  other hr ho := by
    simp only [settleForPeer, hr]
    rw [if_neg (fun h => ho h.1)]

theorem evaluateAll_of_not_active (h : s.station.phase ≠ .active) (n : Service) :
    (evaluateAll s).entry n = s.entry n :=
  forEach_entry (P := fun m e => e = s.entry m) evaluate_entryStep s
    (fun m t k he => by rw [evaluate_of_not_active (by rw [k.station]; exact h), he]) n

theorem reportPeerState_silenced (hl : s.isLive p = false) (hp : s.station.phase ≠ .active) (n : Service) :
    (s.entry n).Silenced p s.timebase ((reportPeerState p s).entry n) := by
  rw [reportPeerState, evaluateAll_of_not_active (by rw [(forEach_step (settleForPeer_step p) s).station]; exact hp)]
  exact forEach_entry (P := fun m e => (s.entry m).Silenced p s.timebase e) (settleForPeer_entryStep p) s
    (fun m t k he => he ▸ k.timebase ▸ settleForPeer_silenced ((k.isLive p).trans hl) m) n

theorem reportFlag_of_not_active (h : s.station.phase ≠ .active) (b : Bool) (n : Service) :
    (reportFlag b s).entry n = s.entry n := by
  unfold reportFlag
  split
  · rfl
  · exact evaluateAll_of_not_active h n

/-- A peer whose entry has become silent is reported. -/
theorem State.PeerBecomes.silenced_entry (h : s.PeerBecomes p (s.peer p).silenced t) (hoc : t.oc = s.oc)
    (hp : s.station.phase ≠ .active) (n : Service) :
    (s.entry n).Silenced p s.timebase ((reportPeerState p t).entry n) := by
  have hl : t.isLive p = false := by
    rw [State.isLive, h.peer, PeerEntry.silenced]
    dsimp only
    split <;> rfl
  have hreport := reportPeerState_silenced hl (by rw [h.station]; exact hp) n
  rwa [entry_of_oc hoc, h.timebase] at hreport

/-- A LIVE or ARRIVING peer that has become SILENT is reported with the isolated flag (R96, cases 1 and 2; R98). -/
theorem State.PeerBecomes.silenced_settled (h : s.PeerBecomes p (s.peer p).silenced t) (hoc : t.oc = s.oc)
    (hp : s.station.phase ≠ .active) (b : Bool) (n : Service) :
    (s.entry n).Silenced p s.timebase
      ((reportFlag b (reportPeerState p (refreshIsolated none t))).entry n) := by
  have hflag := h.flagFollows none
  rw [reportFlag_of_not_active (by rw [(hflag.reported p).station]; exact hp)]
  exact hflag.silenced_entry ((refreshIsolated_oc none t).trans hoc) hp n

/-- The state in which a peer has become silent, before anything is announced. -/
def silencePut (p : StationId) (s : State) : State := putPeer p (s.peer p).silenced s

theorem silencePut_becomes : s.PeerBecomes p (s.peer p).silenced (silencePut p s) := putPeer_becomes ..

theorem silenceRunsOut_of_live (hs : (s.peer p).state = .live) :
    silenceRunsOut p s =
      reportFlag s.peers.isolated (reportPeerState p (refreshIsolated none
        (post .peerSilent none (some p) none none (silencePut p s)))) := by
  simp only [silenceRunsOut, silencePut, PeerEntry.silenced, hs]
  rfl

theorem silenceRunsOut_of_arriving (hs : (s.peer p).state = .arriving) :
    silenceRunsOut p s =
      reportFlag s.peers.isolated (reportPeerState p (refreshIsolated none (silencePut p s))) := by
  simp only [silenceRunsOut, silencePut, PeerEntry.silenced, hs]
  rfl

theorem silenceRunsOut_of_incompatible (hs : (s.peer p).state = .incompatible) :
    silenceRunsOut p s = reportPeerState p (silencePut p s) := by
  simp only [silenceRunsOut, silencePut, PeerEntry.silenced, hs]
  rfl

/-- A peer that is heard, or INCOMPATIBLE, becomes silent, and the reports settle what it owned and claimed. -/
theorem silenceRunsOut_silences
    (hs : (s.peer p).state = .live ∨ (s.peer p).state = .arriving ∨ (s.peer p).state = .incompatible) :
    s.PeerBecomes p (s.peer p).silenced (silenceRunsOut p s) ∧
      (s.station.phase ≠ .active → ∀ n,
        (s.entry n).Silenced p s.timebase ((silenceRunsOut p s).entry n)) := by
  rcases hs with hs | hs | hs
  · have hposted := (silencePut_becomes (p := p) (s := s)).post .peerSilent none (some p) none none
    rw [silenceRunsOut_of_live hs]
    exact ⟨hposted.settled _, fun hp => hposted.silenced_settled rfl hp _⟩
  · have hput := silencePut_becomes (p := p) (s := s)
    rw [silenceRunsOut_of_arriving hs]
    exact ⟨hput.settled _, fun hp => hput.silenced_settled rfl hp _⟩
  · have hput := silencePut_becomes (p := p) (s := s)
    rw [silenceRunsOut_of_incompatible hs]
    exact ⟨hput.reported p, fun hp => hput.silenced_entry rfl hp⟩

/-- A LIVE peer is announced SILENT first (R96, R98). -/
theorem silenceRunsOut_peerSilent (hs : (s.peer p).state = .live) (hrec : s.CanRecord 1) :
    s.host.events ++ [s.event .peerSilent none (some p) none none] <+: (silenceRunsOut p s).host.events := by
  rw [silenceRunsOut_of_live hs]
  exact post_then_settled_first _ rfl rfl hrec

end

/-- Settles O20: the three states part at the announcement and the flag; the entry the peer takes and the report of it
are the same. -/
theorem silenceTimerRunsOut : Obligations.SilenceTimerRunsOut := by
  intro p s ht hs
  obtain ⟨hbecomes, hentries⟩ := silenceRunsOut_silences hs
  refine ⟨silenceRunsOut p s, congrArg Host.Outcome.next (if_pos ht), hbecomes.peer, hbecomes.others.peer,
    hbecomes.clashCount, hbecomes.timebase, hbecomes.cond, hbecomes.station, hbecomes.rx, hbecomes.pending,
    hbecomes.rstLow, silenceRunsOut_peerSilent, fun hp n => ?_⟩
  have hsilenced := hentries hp n
  exact ⟨hsilenced.orphaned, hsilenced.watched, hsilenced.other⟩

end Sys2Proof.Machine

/-! The Frame Receiver reads back what the line code sends (R119 to R123). -/

namespace Sys2Proof.Machine

/-! ## The decoder, one bit time at a time (Table 8-2) -/

theorem opposite_ne (p : Polarity) : opposite p ≠ p := by cases p <;> decide

/-- The decoder is within a frame sent so far without error: `last` is the polarity of the last pulse, `zeros` the length
of the run of zeros. -/
structure Receiver.Assembling (last : Polarity) (zeros : Nat) (r : Receiver) : Prop where
  decoder : r.decoder = .inFrame
  lastPolarity : r.lastPolarity = some last
  emptyCount : r.emptyCount = zeros
  zeros_le : zeros ≤ 4
  overrun : r.overrun = false

/-- The receiver with one content bit more, read as an empty bit time. -/
def Receiver.withZero (r : Receiver) : Receiver :=
  { r with emptyCount := r.emptyCount + 1, assembled := r.assembled ++ [false] }

/-- The receiver with one content bit more, read as a pulse of polarity `p`. -/
def Receiver.withPulse (r : Receiver) (p : Polarity) (b : Bool) (m : MarkKind) : Receiver :=
  { r with emptyCount := 0, lastPolarity := some p, assembled := r.assembled ++ [b], lastMark := some m }

theorem append_of_room {r : Receiver} (h : r.assembled.length < 698) (b : Bool) :
    r.append b = { r with assembled := r.assembled ++ [b] } := if_pos h

/-- A bit time that brings nothing out of the decoder passes the line on. -/
theorem run_cons_of_quiet {r r' : Receiver} {b : Symbol} (h : r.read b = (r', .quiet)) (bs : List Symbol) :
    r.run (b :: bs) = r'.run bs := by
  cases bs with
  | nil => exact congrArg some h
  | cons c cs => rw [Receiver.run, h]

section
variable {last : Polarity} {zeros : Nat} {r : Receiver} (h : r.Assembling last zeros)
include h

theorem read_inFrame (b : Symbol) : r.read b = r.readInFrame (r.sense b) b := by
  simp only [Receiver.read, h.decoder]

/-- A pulse of the other polarity is a one. -/
theorem read_one (hroom : r.assembled.length < 698) :
    r.read (.pulse (opposite last)) = (r.withPulse (opposite last) true .contentOne, .quiet) := by
  have hne : r.lastPolarity ≠ some (opposite last) := by
    rw [h.lastPolarity]
    exact fun heq => opposite_ne last (Option.some.inj heq).symm
  rw [read_inFrame h, Receiver.readInFrame]
  dsimp only
  rw [if_pos hne, append_of_room (by exact hroom)]
  rfl

/-- A pulse of the same polarity after four empty bit times is a zero. -/
theorem read_fill (hzeros : zeros = 4) (hroom : r.assembled.length < 698) :
    r.read (.pulse last) = (r.withPulse last false .fill, .quiet) := by
  rw [read_inFrame h, Receiver.readInFrame]
  dsimp only
  rw [if_neg (not_not_intro h.lastPolarity), if_pos (h.emptyCount.trans hzeros), append_of_room (by exact hroom)]
  rfl

/-- An empty bit time is a zero while the run is short. -/
theorem read_zero (hzeros : zeros ≠ 4) (hroom : r.assembled.length < 698) : r.read .empty = (r.withZero, .quiet) := by
  have hcount := h.emptyCount
  have hle := h.zeros_le
  have hmin : min (r.emptyCount + 1) Config.idleBits = r.emptyCount + 1 :=
    Nat.min_eq_left (by show r.emptyCount + 1 ≤ 12; omega)
  rw [read_inFrame h, Receiver.readInFrame, if_pos (by omega), append_of_room (by exact hroom), Receiver.sense, hmin]
  rfl

/-- A pulse of the same polarity one empty bit time after a one ends the frame. -/
theorem read_end (hzeros : zeros = 1) (hmark : r.lastMark = some .contentOne) :
    r.read (.pulse last) =
      ({ r.leaveFrame with emptyCount := 0, lastPolarity := some last },
        .frameEnd (r.assembled.take (r.assembled.length - 2)) false) := by
  have hcount := h.emptyCount
  rw [read_inFrame h, Receiver.readInFrame]
  dsimp only
  rw [if_neg (not_not_intro h.lastPolarity), if_neg (by omega), if_pos ⟨by omega, hmark⟩, h.overrun]
  rfl

theorem assembling_one : (r.withPulse (opposite last) true .contentOne).Assembling (opposite last) 0 :=
  ⟨h.decoder, rfl, rfl, Nat.zero_le 4, h.overrun⟩

theorem assembling_fill : (r.withPulse last false .fill).Assembling last 0 :=
  ⟨h.decoder, rfl, rfl, Nat.zero_le 4, h.overrun⟩

theorem assembling_zero (hzeros : zeros ≠ 4) : r.withZero.Assembling last (zeros + 1) :=
  ⟨h.decoder, h.lastPolarity, congrArg (· + 1) h.emptyCount, by have := h.zeros_le; omega, h.overrun⟩

/-- The end delimiter, a one and a violation after one empty bit time, ends the frame (R119, R123). -/
theorem run_endDelimiter (hroom : r.assembled.length ≤ 696) :
    r.run (codeBits last zeros []) =
      some ({ r.leaveFrame with emptyCount := 0, lastPolarity := some (opposite last) },
        .frameEnd r.assembled false) := by
  have hone := assembling_one h
  have hlength : (r.withPulse (opposite last) true .contentOne).assembled.length = r.assembled.length + 1 :=
    List.length_append
  rw [codeBits, run_cons_of_quiet (read_one h (by omega)),
    run_cons_of_quiet (read_zero hone (by decide) (by omega)), Receiver.run,
    read_end (assembling_zero hone (by decide)) rfl rfl]
  simp [Receiver.withZero, Receiver.withPulse, Receiver.leaveFrame]

end

/-- Within a frame the decoder follows the line code bit by bit to the end delimiter (R119, R122, R123). -/
theorem run_codeBits {last : Polarity} {zeros : Nat} {content : List Bool} {r : Receiver} (h : r.Assembling last zeros)
    (hroom : r.assembled.length + content.length ≤ 696) :
    r.run (codeBits last zeros content) =
      some ({ r.leaveFrame with emptyCount := 0, lastPolarity := lastPulse (some last) (codeBits last zeros content) },
        .frameEnd (r.assembled ++ content) false) := by
  induction content generalizing last zeros r with
  | nil =>
    rw [run_endDelimiter h (by simpa using hroom), List.append_nil]
    rfl
  | cons b bs ih =>
    have hnow : r.assembled.length < 698 := by
      rw [List.length_cons] at hroom
      omega
    have hnext : (r.assembled ++ [b]).length + bs.length ≤ 696 := by
      rw [List.length_append]
      simpa [Nat.add_assoc, Nat.add_comm 1] using hroom
    cases b with
    | true =>
      rw [codeBits, run_cons_of_quiet (read_one h hnow), ih (assembling_one h) hnext]
      simp [Receiver.withPulse, Receiver.leaveFrame, lastPulse]
    | false =>
      by_cases hzeros : zeros = 4
      · rw [codeBits, if_pos hzeros, run_cons_of_quiet (read_fill h hzeros hnow), ih (assembling_fill h) hnext]
        simp [Receiver.withPulse, Receiver.leaveFrame, lastPulse]
      · rw [codeBits, if_neg hzeros, run_cons_of_quiet (read_zero h hzeros hnow), ih (assembling_zero h hzeros) hnext]
        simp [Receiver.withZero, Receiver.leaveFrame, lastPulse]

/-- The receiver after the start delimiter (R120, R121). -/
def Receiver.opened (r : Receiver) : Receiver :=
  { r with
    decoder := .inFrame, emptyCount := 0, lastPolarity := some .positive, assembled := [], overrun := false
    lastMark := some .delimiter }

theorem run_startDelimiter {r : Receiver} (h : r.decoder = .lineIdle) (bs : List Symbol) :
    r.run (.pulse .positive :: .pulse .positive :: bs) = r.opened.run bs := by
  have hfirst : r.read (.pulse .positive) =
      ({ r with
          decoder := .opening, emptyCount := 0, lastPolarity := some .positive, assembled := [], overrun := false },
        .quiet) := by
    simp only [Receiver.read, h, Receiver.sense]
  rw [run_cons_of_quiet hfirst, run_cons_of_quiet rfl]
  rfl

/-- The receiver after a whole frame with the line code `line` (R123). -/
def Receiver.afterFrame (r : Receiver) (line : List Symbol) : Receiver :=
  { r with
    decoder := .seekIdle, emptyCount := 0, lastPolarity := lastPulse r.lastPolarity line, assembled := []
    overrun := false, lastMark := none }

/-- The decoder reads back every content of a frame from an idle line (R119 to R123). -/
theorem run_codeFrame {r : Receiver} {content : List Bool} (h : r.decoder = .lineIdle) (hlen : content.length ≤ 696) :
    r.run (codeFrame content) = some (r.afterFrame (codeFrame content), .frameEnd content false) := by
  have hopened : r.opened.Assembling .positive 0 := ⟨rfl, rfl, rfl, Nat.zero_le 4, rfl⟩
  rw [codeFrame, run_startDelimiter h, run_codeBits hopened (by simpa [Receiver.opened] using hlen)]
  rfl

end Sys2Proof.Machine

/-! Every frame that the bus carries is judged good with its own fields, read back from its bytes (R124, R125, R157). -/

namespace Sys2Proof.Machine

/-! ## Bits and bytes (R119, R157) -/

theorem byteOf_toNat {n : Nat} (h : n < 256) : (byteOf n).toNat = n := Nat.mod_eq_of_lt h

/-- One bit more of a number, the most significant first. -/
theorem shift_bit (v i : Nat) : 2 * (v / 2 ^ (i + 1)) + v / 2 ^ i % 2 = v / 2 ^ i := by
  rw [Nat.pow_succ, ← Nat.div_div_eq_div_mul]
  omega

theorem byteOfBits_bitsOfByte (b : Byte) : byteOfBits (bitsOfByte b) = b := by
  have hstart : 2 * 0 = 2 * (b.toNat / 2 ^ 8) := by rw [Nat.div_eq_of_lt b.isLt]
  have hfold : (bitsOfByte b).foldl (fun n b => 2 * n + bit b) 0 = b.toNat := by
    simp only [bitsOfByte, List.foldl_cons, List.foldl_nil, bit_getLsbD]
    rw [hstart, shift_bit, shift_bit, shift_bit, shift_bit, shift_bit, shift_bit, shift_bit, shift_bit, Nat.pow_zero,
      Nat.div_one]
  rw [byteOfBits, hfold]
  exact BitVec.eq_of_toNat_eq (byteOf_toNat b.isLt)

theorem bitsOfBytes_length (bs : List Byte) : (bitsOfBytes bs).length = 8 * bs.length := by
  induction bs with
  | nil => rfl
  | cons b bs ih =>
    rw [bitsOfBytes, List.length_append, ih, List.length_cons, Nat.mul_succ, Nat.add_comm]
    rfl

theorem bytesOfBits_bitsOfBytes (bs : List Byte) : bytesOfBits bs.length (bitsOfBytes bs) = bs := by
  induction bs with
  | nil => rfl
  | cons b bs ih =>
    have htake : (bitsOfByte b ++ bitsOfBytes bs).take 8 = bitsOfByte b := List.take_left' rfl
    have hdrop : (bitsOfByte b ++ bitsOfBytes bs).drop 8 = bitsOfBytes bs := List.drop_left' rfl
    rw [List.length_cons, bitsOfBytes, bytesOfBits, htake, hdrop, byteOfBits_bitsOfByte, ih]

theorem wordOf_hiByte_loByte (w : Word16) : wordOf (hiByte w) (loByte w) = w := by
  have hw := w.isLt
  apply BitVec.eq_of_toNat_eq
  simp only [wordOf, hiByte, loByte, BitVec.toNat_ofNat]
  omega

/-! ## The codes of single fields (Tables 11-1 to 11-3) -/

theorem indexOfByte_byteOfIndex (i : Fin 16) : indexOfByte (byteOfIndex i) = some i :=
  indexOfByte_of_toNat (byteOf_toNat (by omega))

theorem statusPhaseOfByte_code (p : StatusPhase) : statusPhaseOfByte (byteOf p.code) = some p := by cases p <;> rfl

theorem flagOfByte_bit (b : Bool) : flagOfByte (byteOf (bit b)) = some b := by cases b <;> rfl

theorem reasonOfByte_code (r : ReleaseReason) : reasonOfByte (byteOf r.code) = some r := by cases r <;> rfl

theorem causeOfByte_code (c : ObjectCause) : causeOfByte (byteOf c.code) = some c := by cases c <;> rfl

theorem gradeOfCode_code (g : Grade) : gradeOfCode g.code = some g := by cases g <;> rfl

theorem Grade.code_le (g : Grade) : g.code ≤ 3 := by cases g <;> decide

theorem SvcClass.code_le (c : SvcClass) : c.code ≤ 1 := by cases c <;> decide

theorem SvcClass.of_code (c : SvcClass) : (if c.code = 1 then SvcClass.force else .normal) = c := by cases c <;> rfl

theorem decodeServiceByte_encode (b : ServiceByte) : decodeServiceByte b.encode = some b := by
  obtain ⟨g, c, r⟩ := b
  have hg := g.code_le
  have hc := c.code_le
  have hr := r.isLt
  have hnat : (ServiceByte.encode ⟨g, c, r⟩).toNat = g.code * 16 + c.code * 8 + r.val :=
    byteOf_toNat (by show g.code * 16 + c.code * 8 + r.val < 256; omega)
  have hgrade : (g.code * 16 + c.code * 8 + r.val) / 16 = g.code := by omega
  have hclass : (g.code * 16 + c.code * 8 + r.val) / 8 % 2 = c.code := by omega
  have hrank : (g.code * 16 + c.code * 8 + r.val) % 8 = r.val := by omega
  simp only [decodeServiceByte, hnat, hgrade, hclass, hrank, gradeOfCode_code, SvcClass.of_code, Option.map_some]

/-! ## Lists (R125, tests 2, 4, 5 and 6) -/

theorem allSome_map_some {α β : Type} {f : α → β} {g : β → Option α} (h : ∀ x, g (f x) = some x) (xs : List α) :
    allSome ((xs.map f).map g) = some xs := by
  induction xs with
  | nil => rfl
  | cons x xs ih => simp only [List.map_cons, h, allSome, ih, Option.map_some]

theorem tableOfList_toList {α : Type} (t : Table α) : tableOfList t.toList = some t :=
  dif_pos t.length_toList

theorem parseHeld_heldBytes (xs : List (Service × Epoch)) : parseHeld xs.length (heldBytes xs) = some xs := by
  induction xs with
  | nil => rfl
  | cons x xs ih => simp only [List.length_cons, heldBytes, parseHeld, indexOfByte_byteOfIndex, ih]

theorem parseRelease_releaseBytes (xs : List ReleaseEntry) : parseRelease xs.length (releaseBytes xs) = some xs := by
  induction xs with
  | nil => rfl
  | cons x xs ih =>
    simp only [List.length_cons, releaseBytes, parseRelease, indexOfByte_byteOfIndex, reasonOfByte_code, ih]

theorem parseObject_objectBytes (xs : List ObjectEntry) : parseObject xs.length (objectBytes xs) = some xs := by
  induction xs with
  | nil => rfl
  | cons x xs ih =>
    simp only [List.length_cons, objectBytes, parseObject, indexOfByte_byteOfIndex, causeOfByte_code, ih]

theorem strictlyAscending_of_pairwise {ns : List Service} (h : ns.Pairwise (· < ·)) : strictlyAscending ns = true := by
  induction ns with
  | nil => rfl
  | cons a ns ih =>
    obtain ⟨ha, hns⟩ := List.pairwise_cons.1 h
    cases ns with
    | nil => rfl
    | cons b rest => rw [strictlyAscending, ih hns, decide_eq_true (ha b List.mem_cons_self), Bool.and_self]

theorem noneTwice_of_nodup {ns : List Service} (h : ns.Nodup) : noneTwice ns = true := by
  induction ns with
  | nil => rfl
  | cons a ns ih =>
    obtain ⟨ha, hns⟩ := List.nodup_cons.1 h
    simp [noneTwice, ih hns, ha]

/-- A list that names no service twice has at most sixteen entries. -/
theorem length_le_of_nodup {α : Type} {service : α → Service} {xs : List α} (h : (xs.map service).Nodup) :
    xs.length ≤ 16 := by
  simpa using h.length_le_card

/-! ## The body of a frame (Table 11-3) -/

theorem statusBytes_parse {b : StatusBody} (h : (FrameBody.status b).WellFormed) :
    parseStatus (bodyBytes (.status b)) = some b := by
  have hlen : (b.services.toList.map ServiceByte.encode).length = 16 := by simp
  have hheld : b.held.length ≤ 16 := length_le_of_nodup (service := Prod.fst) (h.imp (fun hab => ne_of_lt hab))
  have hcount : (byteOf b.held.length).toNat = b.held.length := byteOf_toNat (by omega)
  simp only [bodyBytes, parseStatus, statusPhaseOfByte_code, flagOfByte_bit, List.take_left' hlen, List.drop_left' hlen,
    allSome_map_some decodeServiceByte_encode, Option.bind_some, tableOfList_toList, hcount, if_pos hheld,
    parseHeld_heldBytes, strictlyAscending_of_pairwise h, if_true]

theorem claimBytes_parse (b : ClaimBody) : parseClaim (bodyBytes (.claim b)) = some b := by
  obtain ⟨n, e, m, x⟩ := b
  cases m with
  | vacant => simp [bodyBytes, parseClaim, indexOfByte_byteOfIndex, decodeServiceByte_encode]
  | takeover t => simp [bodyBytes, parseClaim, indexOfByte_byteOfIndex, decodeServiceByte_encode]

/-- The count that heads a RELEASE or OBJECT list is within its range (R125, test 3). -/
theorem listCount_of_nodup {α : Type} {service : α → Service} {xs : List α} (hne : xs ≠ []) (h : (xs.map service).Nodup) :
    (byteOf xs.length).toNat = xs.length ∧ 1 ≤ xs.length ∧ xs.length ≤ 16 := by
  have hle := length_le_of_nodup h
  exact ⟨byteOf_toNat (by omega), List.length_pos_iff.2 hne, hle⟩

/-- The body of every frame that the bus carries is read back (R125). -/
theorem parseBody_bodyBytes {body : FrameBody} (h : body.WellFormed) :
    parseBody body.kind.code (bodyBytes body) = some body := by
  cases body with
  | status b =>
    show (parseStatus _).map FrameBody.status = _
    rw [statusBytes_parse h]
    rfl
  | claim b =>
    show (parseClaim _).map FrameBody.claim = _
    rw [claimBytes_parse b]
    rfl
  | release xs =>
    obtain ⟨hcount, hrange⟩ := listCount_of_nodup h.1 h.2
    simp only [FrameBody.kind, FrameKind.code, bodyBytes, parseBody, hcount, if_pos hrange, parseRelease_releaseBytes]
    exact if_pos (noneTwice_of_nodup h.2)
  | object xs =>
    obtain ⟨hcount, hrange⟩ := listCount_of_nodup h.1 h.2
    simp only [FrameBody.kind, FrameKind.code, bodyBytes, parseBody, hcount, if_pos hrange, parseObject_objectBytes]
    exact if_pos (noneTwice_of_nodup h.2)

/-! ## The whole frame (Tables 11-1 and 11-4) -/

theorem FrameKind.code_le (k : FrameKind) : k.code ≤ 7 := by cases k <;> decide

theorem parseFrame_coveredBytes {f : Frame} (h : f.body.WellFormed) : parseFrame (coveredBytes f) = some f := by
  obtain ⟨p, q, c, body⟩ := f
  have hkind := body.kind.code_le
  have hnat : (byteOf (body.kind.code * 16 + p.val)).toNat = body.kind.code * 16 + p.val := byteOf_toNat (by omega)
  have hcode : (body.kind.code * 16 + p.val) / 16 = body.kind.code := by omega
  have hsender : (body.kind.code * 16 + p.val) % 16 = p.val := by omega
  simp only [coveredBytes, parseFrame, hnat, hcode, hsender, parseBody_bodyBytes h, wordOf_hiByte_loByte,
    Option.map_some]

theorem judgeBytes_frameBytes {f : Frame} (h : f.body.WellFormed) : judgeBytes (frameBytes f) = .good f := by
  have hlen : (frameBytes f).length - 2 = (coveredBytes f).length := by simp [frameBytes]
  simp only [judgeBytes, hlen]
  rw [frameBytes, List.take_left' rfl, List.drop_left' rfl]
  simp only [wordOf_hiByte_loByte, if_true, parseFrame_coveredBytes h]

theorem heldBytes_length (xs : List (Service × Epoch)) : (heldBytes xs).length = 2 * xs.length := by
  induction xs with
  | nil => rfl
  | cons x xs ih =>
    simp only [heldBytes, List.length_cons, ih]
    omega

theorem releaseBytes_length (xs : List ReleaseEntry) : (releaseBytes xs).length = 3 * xs.length := by
  induction xs with
  | nil => rfl
  | cons x xs ih =>
    simp only [releaseBytes, List.length_cons, ih]
    omega

theorem objectBytes_length (xs : List ObjectEntry) : (objectBytes xs).length = 5 * xs.length := by
  induction xs with
  | nil => rfl
  | cons x xs ih =>
    simp only [objectBytes, List.length_cons, ih]
    omega

theorem frameBytes_length (f : Frame) : (frameBytes f).length = (bodyBytes f.body).length + 6 := by
  simp [frameBytes, coveredBytes]

/-- The lengths of Table 11-4, without header and CRC. -/
theorem bodyBytes_length (body : FrameBody) :
    (bodyBytes body).length =
      match body with
      | .status b => 19 + 2 * b.held.length
      | .claim c => if c.mode = .vacant then 4 else 5
      | .release xs => 1 + 3 * xs.length
      | .object xs => 1 + 5 * xs.length := by
  cases body with
  | status b =>
    simp only [bodyBytes, List.length_cons, List.length_append, List.length_map, Vector.length_toList, heldBytes_length]
    omega
  | claim c =>
    obtain ⟨n, e, m, x⟩ := c
    cases m <;> rfl
  | release xs => simp only [bodyBytes, List.length_cons, releaseBytes_length, Nat.add_comm]
  | object xs => simp only [bodyBytes, List.length_cons, objectBytes_length, Nat.add_comm]

/-- No frame that the bus carries is longer than 87 bytes (R157). -/
theorem bodyBytes_length_le {body : FrameBody} (h : body.WellFormed) : (bodyBytes body).length ≤ 81 := by
  rw [bodyBytes_length]
  cases body with
  | status b =>
    have := length_le_of_nodup (service := Prod.fst) (xs := b.held) (h.imp (fun hab => ne_of_lt hab))
    dsimp only
    omega
  | claim c =>
    dsimp only
    split <;> omega
  | release xs =>
    have := length_le_of_nodup h.2
    dsimp only
    omega
  | object xs =>
    have := length_le_of_nodup h.2
    dsimp only
    omega

/-- Every frame that the bus carries is judged good, with its own fields (R124, R125, R157). -/
theorem judgeFrame_frameBytes {f : Frame} (h : f.body.WellFormed) :
    judgeFrame (bitsOfBytes (frameBytes f)) false = .good f := by
  have hlen := bitsOfBytes_length (frameBytes f)
  have hmin := frameBytes_length f
  have hdiv : (bitsOfBytes (frameBytes f)).length / 8 = (frameBytes f).length := by omega
  rw [judgeFrame, if_pos ⟨by omega, by show 48 ≤ _; omega, rfl⟩, hdiv, bytesOfBits_bitsOfBytes,
    judgeBytes_frameBytes h]

end Sys2Proof.Machine

/-! A whole frame on an idle line while no attempt is driven (R119 to R126), and the ID clash (R99, R114). -/

namespace Sys2Proof.Machine

/-! ## A whole frame heard (R123, R124, R126) -/

/-- The line code of a frame (R119, R157). -/
def Frame.line (f : Frame) : List Symbol := codeFrame (bitsOfBytes (frameBytes f))

/-- The state in which a good frame is handed on: its bit times have passed, and the receiver has counted it. -/
def frameHeard (f : Frame) (s : State) : State :=
  (s.withTx (passBits f.line.length s).tx).withRx
    { s.rx.afterFrame f.line with goodFrames := satInc s.rx.goodFrames }

section
variable {f : Frame} {s : State}

theorem run_line (hr : s.rx.decoder = .lineIdle) (hf : f.body.WellFormed) :
    s.rx.run f.line = some (s.rx.afterFrame f.line, .frameEnd (bitsOfBytes (frameBytes f)) false) := by
  have hle := bodyBytes_length_le hf
  have hlen := frameBytes_length f
  exact run_codeFrame hr (by rw [bitsOfBytes_length]; omega)

/-- A whole good frame on an idle line is handed on (R119 to R126). -/
theorem exec_frameReceived_line (hrx : s.rx.receiving = true) (hd : s.tx.state ≠ .driving)
    (hr : s.rx.decoder = .lineIdle) (hf : f.body.WellFormed) :
    exec (.frameReceived f.line) s = .next (routeFrame f (frameHeard f s)) := by
  have hdriven : s.drivenFlight = none := if_neg hd
  refine congrArg Host.Outcome.next ?_
  rw [frameReceived, if_neg (by simp [hrx]), hdriven, run_line hr hf]
  dsimp only
  rw [frameEnds, judgeFrame_frameBytes hf, passBits_fields]
  rfl

theorem passBits_flight (k : Nat) (s : State) : (passBits k s).tx.flight = s.tx.flight := by
  unfold passBits
  split <;> rfl

theorem passBits_state (k : Nat) (s : State) : (passBits k s).tx.state = s.tx.state := by
  unfold passBits
  split <;> rfl

end

/-! ## MUTED posts one event for each service at most (R114) -/

theorem muteEntry_posts (n : Service) (s : State) : s.Posts 1 (muteEntry n s) := by
  simp only [muteEntry]
  split
  · exact .quiet_after (.quiet_before (t := putEntry n _ s) rfl (post_posts (by decide) ..)) rfl
  · rw [dropRecord_eq]
    exact .none rfl
  · exact .none rfl

theorem muteTable_posts (s : State) : s.Posts 16 (muteTable s) :=
  .quiet_before (t := stopTimers (setPhase .muted s)) rfl (forEach_posts (k := 1) muteEntry_posts _)

theorem standDown_posts {k : EventKind} (hk : k ≠ .peerLive) (d : Detail) (x : Transmitter) (r : State) :
    r.Posts 2 (standDown k d x r) :=
  .quiet_before (t := r.withTx x) rfl ((refreshIsolated_posts ..).trans (post_posts hk ..))

/-! ## The ID clash (R99) -/

/-- ID_CLASH counted and posted, before MUTED is asked for (R99). -/
def clashPosted (s : State) : State :=
  post .idClash none (some s.station.ownId) none (some (.count (clashDetail (satInc s.peers.clashCount))))
    (s.withPeers { s.peers with clashCount := satInc s.peers.clashCount })

section
variable {s : State}

theorem idClash_muting (hp : s.station.phase.sends = true) (hd : s.tx.state ≠ .driving) :
    idClash s = standDown .muted (.muted .idClash) (mutedTx s.tx) (muteTable (clashPosted s)) :=
  (if_pos hp).trans (muteStation_eq (s := clashPosted s) .idClash hd)

theorem idClash_elsewhere (hp : s.station.phase.sends = false) : idClash s = clashPosted s :=
  if_neg (by
    show ¬s.station.phase.sends = true
    rw [hp]
    decide)

/-- ID_CLASH carries the count, shown as 255 above 255 (Table 10-4). -/
theorem clashPosted_events (h : s.CanRecord 1) :
    (clashPosted s).host.events =
      s.host.events ++
        [s.event .idClash none (some s.station.ownId) none
          (some (.count (byteOf (min (satInc s.peers.clashCount).toNat 255))))] :=
  State.CanRecord.post_events (s := s.withPeers _) (k := 0) _ _ _ _ _ (h.of_host rfl)

/-- What an ID clash makes of a station whose Transmitter drives no attempt (R99, R114, R144). -/
structure State.Clashed (s t : State) : Prop where
  entries : t.peers.entries = s.peers.entries
  clashCount : t.peers.clashCount = satInc s.peers.clashCount
  rx : t.rx = s.rx
  timebase : t.timebase = s.timebase
  cond : t.cond = s.cond
  pending : t.pending = s.pending
  rstLow : t.rstLow = s.rstLow
  mutes : s.station.phase.sends = true →
    t.station = { s.station with phase := .muted, listenTimer := none, statusTimer := none } ∧ t.tx.queue = emptyQueue
  stays : s.station.phase.sends = false → t.station = s.station ∧ t.oc = s.oc
  posted : (clashPosted s).host.events <+: t.host.events

theorem idClash_clashed (hd : s.tx.state ≠ .driving) : s.Clashed (idClash s) := by
  cases hp : s.station.phase.sends with
  | true =>
    rw [idClash_muting hp hd]
    obtain ⟨hstation, hpeers, htime, hcond, hrx, hpending, hrst, -⟩ :=
      standDown_blocks (k := .muted) (d := .muted .idClash) (x := mutedTx s.tx) (by decide)
        (muteTable_step (clashPosted s))
    exact
      { entries := by rw [hpeers]; rfl
        clashCount := by rw [hpeers]; rfl
        rx := hrx
        timebase := htime
        cond := hcond
        pending := hpending
        rstLow := hrst
        mutes := fun _ => ⟨hstation, congrArg Transmitter.queue standDown_tx⟩
        stays := fun hn => by rw [hp] at hn; cases hn
        posted := ((muteTable_posts _).trans (standDown_posts (by decide) ..)).grow }
  | false =>
    rw [idClash_elsewhere hp]
    exact
      { entries := rfl
        clashCount := rfl
        rx := rfl
        timebase := rfl
        cond := rfl
        pending := rfl
        rstLow := rfl
        mutes := fun hs => by rw [hp] at hs; cases hs
        stays := fun _ => ⟨rfl, rfl⟩
        posted := List.prefix_rfl }

theorem routeFrame_clash {f : Frame} (hf : f.sender = s.station.ownId) (hn : s.tx.flight = none) :
    routeFrame f s = idClash s := by
  rw [routeFrame, if_pos hf, hn]

end

/-- Settles O35: the line is read back as the frame, which is good, and goes to the clash before any peer's entry. -/
theorem idClashMutes : Obligations.IdClashMutes := by
  intro f s hrx hd hn hr hf hsender
  have hexec := exec_frameReceived_line hrx hd hr hf
  rw [routeFrame_clash (s := frameHeard f s) hsender ((passBits_flight ..).trans hn)] at hexec
  have hidle : (frameHeard f s).tx.state ≠ .driving := fun h => hd ((passBits_state ..).symm.trans h)
  have hclash := idClash_clashed hidle
  refine ⟨_, hexec, hclash.entries, hclash.clashCount, congrArg Receiver.goodFrames hclash.rx, hclash.timebase,
    hclash.cond, hclash.pending, hclash.rstLow, hclash.mutes, hclash.stays, fun hrec => ?_⟩
  have hposted := hclash.posted
  rw [clashPosted_events (s := frameHeard f s) (hrec.of_host rfl)] at hposted
  exact hposted

end Sys2Proof.Machine

/-! The phases of a station: the listen timer and the status period timer (R98, R108, R109), and the frame in flight that
ends CLEAN, with which the last leave frame brings DETACHED (R112, R135, R140, R144). -/

namespace Sys2Proof.Machine

/-! ## A STATUS asked for (R132, R135) -/

/-- A request touches the Transmitter alone. -/
theorem request_eq_withTx (f : TxQueue → TxQueue) (s : State) : request f s = s.withTx (request f s).tx := by
  unfold request
  rw [takeNext_fields, enqueue_fields]
  rfl

section
variable {s : State} (hp : s.station.phase.sends = true)
include hp

/-- A busy Transmitter gets the STATUS queued. -/
theorem requestStatus_tx_of_busy (hb : s.tx.state ≠ .ready) :
    (requestStatus s).tx = { s.tx with queue := s.tx.queue.addStatus } := by
  rw [requestStatus, request_of_busy hp _ hb]
  rfl

/-- A READY Transmitter with an empty queue takes the STATUS at once. -/
theorem requestStatus_tx_of_ready (hr : s.tx.state = .ready) (hq : s.tx.queue = emptyQueue) :
    (requestStatus s).tx =
      { s.tx with
        state := .waiting, flight := some { frame := .status, content := none, seq := none, attempts := 0 } } := by
  have hhead : s.tx.queue.addStatus.takeHead = some (.status, s.tx.queue) := by
    rw [hq]
    rfl
  unfold requestStatus request
  rw [enqueue_of_sends hp,
    takeNext_of_head (s := s.withTx { s.tx with queue := s.tx.queue.addStatus }) hp hr hhead]
  rfl

end

/-- Settles O22: the timer restarts, and the request touches the Transmitter alone, which queues the STATUS or takes it. -/
theorem statusPeriodRunsOut : Obligations.StatusPeriodRunsOut := by
  intro s ht hphase
  have hp : (s.withStation { s.station with statusTimer := some 4 }).station.phase.sends = true := by
    show s.station.phase.sends = true
    rcases hphase with h | h <;> rw [h] <;> rfl
  exact ⟨requestStatus (s.withStation { s.station with statusTimer := some 4 }),
    congrArg Host.Outcome.next (if_pos ⟨ht, hphase⟩), request_eq_withTx .., requestStatus_statusWaits hp,
    requestStatus_tx_of_busy hp, requestStatus_tx_of_ready hp⟩

/-! ## The frame in flight finished, by phase (R112, R135) -/

section
variable {s : State}

/-- Unless the leave frames are done, finishing the frame only takes the next head (R112). -/
theorem finishFrame_eq_takeNext (h : s.station.phase ≠ .leaving ∨ s.tx.queue ≠ emptyQueue) :
    finishFrame s = takeNext (flightDone s) := by
  rcases h with hp | hq
  · have hno : frameFinished (s.withTx { s.tx with flight := none, backOff := none }) =
        s.withTx { s.tx with flight := none, backOff := none } := if_neg fun hl => hp hl.1
    simp only [finishFrame, hno]
    rfl
  · exact finishFrame_of_queued hq

theorem finishFrame_keeps_phase (h : s.station.phase ≠ .leaving ∨ s.tx.queue ≠ emptyQueue) :
    (finishFrame s).station = s.station ∧ (finishFrame s).host = s.host := by
  rw [finishFrame_eq_takeNext h]
  exact ⟨(takeNext_step _).station, takeNext_host _⟩

/-- With an empty queue the leave frames are done (R112). -/
theorem finishFrame_detaches (hp : s.station.phase = .leaving) (hq : s.tx.queue = emptyQueue) :
    finishFrame s =
      flightDone (post .phaseChanged none none none (some (.phase .detached)) (setPhase .detached s)) := by
  have hdone : frameFinished (s.withTx { s.tx with flight := none, backOff := none }) =
      post .phaseChanged none none none (some (.phase .detached))
        (setPhase .detached (s.withTx { s.tx with flight := none, backOff := none })) :=
    if_pos ⟨hp, (isEmpty_iff _).2 hq, rfl⟩
  simp only [finishFrame]
  rw [takeNext_of_empty (by rw [withTx_tx, frameFinished_tx]; exact hq), hdone]
  rfl

end

/-! ## A STATUS, RELEASE or OBJECT that ends CLEAN (R140, R144) -/

section
variable {s : State} {f : Flight} (hd : s.tx.state = .driving) (hf : s.tx.flight = some f)
include hd hf

theorem attemptClean_of_driven : attemptClean s = endClean f (s.withRx (s.rx.afterOwnFrame f.driven)) := by
  simp only [attemptClean, State.drivenFlight, if_pos hd, hf]

/-- In MUTED the frame is counted and dropped (R144, case 3). -/
theorem attemptClean_of_muted (hm : s.station.phase = .muted) : attemptClean s = dropMuted (countClean f s) := by
  rw [attemptClean_of_driven hd hf]
  exact if_pos hm

/-- A frame other than a CLAIM brings no report of the Ownership Controller (R140). -/
theorem attemptClean_of_other (hc : ∀ n e, f.frame ≠ .claim n e) (hm : s.station.phase ≠ .muted) :
    attemptClean s = finishFrame (countClean f s) := by
  rw [attemptClean_of_driven hd hf]
  refine (if_neg hm).trans ?_
  cases hk : f.frame with
  | claim n e => exact absurd hk (hc n e)
  | status => rfl
  | release es => rfl
  | object es => rfl

end

/-- Settles O26: in MUTED the counted frame is dropped; elsewhere it is finished, and the queue and the phase decide
between the next head, READY and DETACHED. -/
theorem cleanAttemptEnds : Obligations.CleanAttemptEnds := by
  intro s f hd hf hc hphase
  refine ⟨attemptClean s, rfl, ?_⟩
  by_cases hm : s.station.phase = .muted
  · rw [attemptClean_of_muted hd hf hm]
    exact ⟨rfl, rfl, rfl, rfl, rfl, rfl, rfl, rfl, fun _ => ⟨rfl, rfl, rfl, rfl, rfl⟩, fun h => absurd hm h⟩
  · have hfin := finishFrame_finished (s := countClean f s) (hphase.resolve_right hm)
    have hkeeps := finishFrame_keeps_phase (s := countClean f s)
    have hdetaches := finishFrame_detaches (s := countClean f s)
    rw [attemptClean_of_other hd hf hc hm]
    refine ⟨hfin.tx, hfin.rx, hfin.timebase, hfin.oc, hfin.cond, hfin.peers, hfin.pending, hfin.rstLow,
      fun h => absurd h hm, fun _ => ⟨fun g q hq => ?_, fun hq => ?_⟩⟩
    · obtain ⟨hstate, hqueue, hflight⟩ := hfin.next g q hq
      exact ⟨hstate, hqueue, hflight, hkeeps (.inr (takeHead_ne_empty hq))⟩
    · obtain ⟨hstate, hflight, hqueue⟩ := hfin.idle hq
      refine ⟨hstate, hqueue, hflight, fun hp => hkeeps (.inl hp), fun hp => ?_⟩
      rw [hdetaches hp hq]
      exact ⟨rfl, fun hrec =>
        State.CanRecord.post_events (s := setPhase .detached (countClean f s)) (k := 0) _ _ _ _ _ (hrec.of_host rfl)⟩

/-! ## Evaluation of all services (R14) -/

/-- No evaluation posts an event (R14 to R18). -/
theorem evaluateAll_host (s : State) : (evaluateAll s).host = s.host :=
  forEach_keeps (P := fun t => t.host = s.host) (fun n t h => (evaluate_host n t).trans h) rfl

theorem reportFlag_host (b : Bool) (s : State) : (reportFlag b s).host = s.host := by
  unfold reportFlag
  split
  · rfl
  · exact evaluateAll_host s

/-- No evaluation changes an owner or an epoch (R14 to R18). -/
theorem evaluateAll_owner_epoch (s : State) (n : Service) :
    ((evaluateAll s).entry n).owner = (s.entry n).owner ∧ ((evaluateAll s).entry n).epoch = (s.entry n).epoch :=
  forEach_entry (P := fun m e => e.owner = (s.entry m).owner ∧ e.epoch = (s.entry m).epoch) evaluate_entryStep s
    (fun m t _ he => he ▸ ⟨evaluate_owner m t, evaluate_epoch m t⟩) n

theorem reportFlag_owner_epoch (b : Bool) (s : State) (n : Service) :
    ((reportFlag b s).entry n).owner = (s.entry n).owner ∧ ((reportFlag b s).entry n).epoch = (s.entry n).epoch := by
  unfold reportFlag
  split
  · exact ⟨rfl, rfl⟩
  · exact evaluateAll_owner_epoch s n

/-! ## The isolated flag set (R98) -/

theorem isolatedNow_of_active {s : State} (h : s.station.phase = .active) :
    s.isolatedNow = decide (1 ≤ s.station.plan.expectedPeers.val ∧ ∀ p, (s.peer p).state ≠ .live) := by
  rw [Bool.eq_iff_iff]
  simp [State.isolatedNow, State.isLive, h]

/-- A flag that was clear posts ISOLATED when it becomes set, and nothing otherwise (R98). -/
theorem refreshIsolated_events {s : State} (j : Option StationId) (hi : s.peers.isolated = false) (h : s.CanRecord 1) :
    (refreshIsolated j s).host.events =
      s.host.events ++ (if s.isolatedNow = true then [s.event .isolated none none none none] else []) := by
  simp only [refreshIsolated, hi]
  cases hnow : s.isolatedNow with
  | false => simp
  | true =>
    simp only [Bool.true_eq_false, if_false, if_true]
    exact State.CanRecord.post_events (s := s.withPeers _) (k := 0) _ _ _ _ _ (h.of_host rfl)

/-! ## Entry to ACTIVE (R109) -/

/-- The station is ACTIVE, before the other blocks take the report of the phase (R109). -/
def activated (s : State) : State := setPhase .active (s.withStation { s.station with listenTimer := none })

/-- The isolated flag is formed and the services evaluated, before PHASE_CHANGED (R98, R109). -/
def activeReported (s : State) : State :=
  reportFlag s.peers.isolated (evaluateAll (refreshIsolated none (activated s)))

section
variable (s : State)

theorem enterActive_eq :
    enterActive s = post .phaseChanged none none none (some (.phase .active)) (activeReported s) := rfl

/-- Once the flag stands the rest of the entry to ACTIVE is the Ownership Controller's, and events. -/
theorem activeReported_step : OwnerStep (activated s).refreshed (activeReported s) :=
  ((refreshIsolated_step none _).trans (evaluateAll_step _)).trans (reportFlag_step ..)

theorem activeReported_owner_epoch (n : Service) :
    ((activeReported s).entry n).owner = (s.entry n).owner ∧ ((activeReported s).entry n).epoch = (s.entry n).epoch := by
  obtain ⟨howner, hepoch⟩ := evaluateAll_owner_epoch (refreshIsolated none (activated s)) n
  rw [entry_of_oc (refreshIsolated_oc none (activated s)) n] at howner hepoch
  rw [activeReported, (reportFlag_owner_epoch ..).1, (reportFlag_owner_epoch ..).2, howner, hepoch]
  exact ⟨rfl, rfl⟩

theorem activeReported_host : (activeReported s).host = (refreshIsolated none (activated s)).host :=
  (reportFlag_host ..).trans (evaluateAll_host _)

end

/-- PHASE_CHANGED is the last event, after ISOLATED where the flag becomes set (R98, R103, R109). -/
theorem enterActive_events {s : State} (hi : s.peers.isolated = false) (h : s.CanRecord 2) :
    (enterActive s).host.events =
      s.host.events ++ (if (activated s).isolatedNow = true then [s.event .isolated none none none none] else []) ++
        [s.event .phaseChanged none none none (some (.phase .active))] := by
  have hroom : (activated s).CanRecord 2 := h.of_host rfl
  have hlast : (activeReported s).CanRecord 1 :=
    (refreshIsolated_canRecord none hroom).of_host (activeReported_host s)
  have htime : (activeReported s).timebase = s.timebase := (activeReported_step s).timebase
  rw [enterActive_eq, State.CanRecord.post_events (k := 0) _ _ _ _ _ hlast, activeReported_host,
    refreshIsolated_events (s := activated s) none hi (hroom.le (by decide))]
  simp only [State.event, htime]
  rfl

/-- Settles O21: the flag is formed first, and what follows it, the evaluations and PHASE_CHANGED, leaves the other blocks,
the owners and the epochs alone. -/
theorem listenTimerRunsOut : Obligations.ListenTimerRunsOut := by
  intro s ht hp
  have hstep := (activeReported_step s).trans (post_step .phaseChanged none none none (some (.phase .active)) _)
  rw [← enterActive_eq] at hstep
  have hflag := isolatedNow_of_active (s := activated s) rfl
  have hpeers : (enterActive s).peers = { s.peers with isolated := (activated s).isolatedNow } := hstep.peers
  refine ⟨enterActive s, congrArg Host.Outcome.next (if_pos ⟨ht, hp⟩), hstep.station, hflag ▸ hpeers, hstep.timebase,
    hstep.cond, hstep.rx, hstep.pending, hstep.rstLow, fun n => ?_, fun hi hrec => ?_⟩
  · rw [enterActive_eq, post_entry]
    exact activeReported_owner_epoch s n
  · rw [hpeers]
    exact enterActive_events hi hrec

end Sys2Proof.Machine

/-! What the Frame Receiver makes of a line while no attempt is driven: every content and every frame read back (R119 to
R125), a frame that ends (R123, R124, R126, R139), the line that becomes idle (R118, R120), and code errors (R121, R122). -/

namespace Sys2Proof.Machine

/-- Settles O9: `run_codeFrame` follows the line code bit by bit to the end delimiter. -/
theorem decoderInvertsLineCode : Obligations.DecoderInvertsLineCode :=
  fun _ _ hidle hlen => run_codeFrame hidle hlen

/-! ## The lengths of frames (Table 11-4) -/

/-- The shortest body is that of a CLAIM without a target, or of a list with one entry (Table 11-4). -/
theorem bodyBytes_length_ge {body : FrameBody} (h : body.WellFormed) : 4 ≤ (bodyBytes body).length := by
  rw [bodyBytes_length]
  cases body with
  | status b =>
    dsimp only
    omega
  | claim c =>
    dsimp only
    split <;> omega
  | release xs =>
    have := List.length_pos_iff.2 h.1
    dsimp only
    omega
  | object xs =>
    have := List.length_pos_iff.2 h.1
    dsimp only
    omega

/-- Settles O10: the length is the body's with six bytes of header and CRC, and the frame is read back test by test of
R125 (`judgeFrame_frameBytes`). -/
theorem frameBytesParseBack : Obligations.FrameBytesParseBack := by
  intro f
  have hlen := frameBytes_length f
  refine ⟨?_, fun hf => ⟨judgeFrame_frameBytes hf, ?_, ?_⟩⟩
  · rw [hlen, bodyBytes_length]
    cases f.body with
    | status b =>
      dsimp only
      omega
    | claim c =>
      dsimp only
      split <;> rfl
    | release xs =>
      dsimp only
      omega
    | object xs =>
      dsimp only
      omega
  · have := bodyBytes_length_ge hf
    omega
  · have := bodyBytes_length_le hf
    omega

/-! ## Bit times that pass while no attempt is driven (R141) -/

/-- A back-off counts the bit times down to 0, and nothing else of the Transmitter changes (log entry 19). -/
theorem passBits_backOff (k : Nat) (s : State) :
    (passBits k s).tx =
      { s.tx with backOff := if s.tx.state = .backingOff then s.tx.backOff.map (· - k) else s.tx.backOff } := by
  unfold passBits
  split
  · next hstate hback => rw [if_pos hstate, hback, Option.map_some, withTx_tx]
  · next hno =>
    split
    · next hstate =>
      cases hback : s.tx.backOff with
      | none => rw [Option.map_none, ← hback]
      | some b => exact absurd hback (hno b hstate)
    · rfl

/-! ## A frame that ends (R123, R124, R126) -/

theorem routeFrame_peer {f : Frame} {s : State} (h : f.sender ≠ s.station.ownId) : routeFrame f s = takeFrame f s :=
  if_neg h

theorem routeFrame_own {f : Frame} {s : State} (h : f.sender = s.station.ownId) (hf : s.tx.flight ≠ none) :
    routeFrame f s = s := by
  rw [routeFrame, if_pos h]
  cases hn : s.tx.flight with
  | none => exact absurd hn hf
  | some g => rfl

/-- Settles O11: the line is read back as the frame, which is good and goes to the Peer Monitor. -/
theorem peerFrameIsTaken : Obligations.PeerFrameIsTaken := by
  intro f s hrx hd hidle hf hsender line
  have hexec := exec_frameReceived_line hrx hd hidle hf
  rw [routeFrame_peer (s := frameHeard f s) hsender] at hexec
  refine ⟨frameHeard f s, hexec, rfl, rfl, ?_⟩
  rw [frameHeard, passBits_backOff]
  rfl

section
variable {line : List Symbol} {s : State} {r : Receiver}

/-- FRAME_RECEIVED while no attempt is driven: the frame that ends is judged, counted and handed on. -/
theorem exec_frameReceived_of_run {c : List Bool} {past : Bool} (hrx : s.rx.receiving = true)
    (hd : s.tx.state ≠ .driving) (hr : s.rx.run line = some (r, .frameEnd c past)) :
    exec (.frameReceived line) s = .next (frameEnds c past r (passBits line.length s)) := by
  have hdriven : s.drivenFlight = none := if_neg hd
  refine congrArg Host.Outcome.next ?_
  rw [frameReceived, if_neg (by simp [hrx]), hdriven, hr]

/-- CODE_ERROR while no attempt is driven: the receiver alone changes, but for a back-off. -/
theorem exec_codeError_of_run (hrx : s.rx.receiving = true) (hd : s.tx.state ≠ .driving)
    (hr : s.rx.run line = some (r, .codeError)) :
    exec (.codeError line) s = .next ((passBits line.length s).withRx r) := by
  have hdriven : s.drivenFlight = none := if_neg hd
  refine congrArg Host.Outcome.next ?_
  rw [codeError, if_neg (by simp [hrx]), hdriven, hr]
  rfl

/-- LINE_IDLE while no attempt is driven: the receiver alone changes, but for a back-off. -/
theorem exec_lineIdle_of_run (hrx : s.rx.receiving = true) (hd : s.tx.state ≠ .driving)
    (hr : s.rx.run line = some (r, .idle)) :
    exec (.lineIdle line) s = .next ((passBits line.length s).withRx r) := by
  refine congrArg Host.Outcome.next ?_
  rw [lineIdle, if_neg (by simp [hrx, hd]), hr]
  rfl

end

/-- The length test of R124: incomplete bytes, less than a header and a CRC, and the overrun flag are format errors. -/
theorem judgeFrame_of_length {c : List Bool} {past : Bool} (h : c.length % 8 ≠ 0 ∨ c.length < 48 ∨ past = true) :
    judgeFrame c past = .formatError := by
  refine if_neg fun ⟨hbytes, hshort, hpast⟩ => ?_
  have hshort : 48 ≤ c.length := hshort
  rcases h with hpart | hless | hover
  · exact hpart hbytes
  · omega
  · exact absurd (hpast.symm.trans hover) (by decide)

/-- Settles O12: the judgement of the content decides the counter, and only a good frame is handed on. -/
theorem endedFrameIsCounted : Obligations.EndedFrameIsCounted := by
  intro line s r c past hrx hd hr
  rw [exec_frameReceived_of_run hrx hd hr, frameEnds]
  refine ⟨fun hj => ?_, fun hj => ?_, fun f hj hsender hflight => ?_, judgeFrame_of_length⟩
  · rw [hj]
    rfl
  · rw [hj]
    rfl
  · rw [hj]
    refine congrArg Host.Outcome.next (routeFrame_own ?_ ?_)
    · rw [passBits_fields]
      exact hsender
    · rw [withRx_tx, passBits_flight]
      exact hflight

/-! ## The line becomes idle (R118, R120) -/

theorem read_seekIdle_empty {r : Receiver} (h : r.decoder = .seekIdle) (hc : r.emptyCount + 1 < 12) :
    r.read .empty = ({ r with emptyCount := r.emptyCount + 1 }, .quiet) := by
  have hmin : min (r.emptyCount + 1) Config.idleBits = r.emptyCount + 1 := Nat.min_eq_left (by show _ ≤ 12; omega)
  simp only [Receiver.read, h, Receiver.sense, hmin]
  exact if_neg (by show ¬_ = 12; omega)

theorem read_seekIdle_twelfth {r : Receiver} (h : r.decoder = .seekIdle) (hc : r.emptyCount + 1 = 12) :
    r.read .empty = ({ r with decoder := .lineIdle, emptyCount := 12 }, .idle) := by
  simp only [Receiver.read, h, Receiver.sense, hc]
  rfl

/-- The empty bit times that complete twelve bring LINE_IDLE in the last one (R120). -/
theorem run_replicate_empty {r : Receiver} {k : Nat} (h : r.decoder = .seekIdle) (hc : r.emptyCount + (k + 1) = 12) :
    r.run (List.replicate (k + 1) .empty) = some ({ r with decoder := .lineIdle, emptyCount := 12 }, .idle) := by
  induction k generalizing r with
  | zero => exact congrArg some (read_seekIdle_twelfth h hc)
  | succ k ih =>
    rw [List.replicate_succ, run_cons_of_quiet (read_seekIdle_empty h (by omega))]
    exact ih h (by show r.emptyCount + 1 + (k + 1) = 12; omega)

/-- Settles O33: the empty bit times are counted one by one, and the twelfth makes the line idle. -/
theorem lineBecomesIdle : Obligations.LineBecomesIdle := by
  intro s k hrx hd hseek hpos hc
  obtain ⟨k, rfl⟩ := Nat.exists_eq_succ_of_ne_zero hpos.ne'
  rw [exec_lineIdle_of_run hrx hd (run_replicate_empty hseek hc), List.length_replicate]

/-! ## Code errors (R121, R122, Table 8-2) -/

section
variable {r : Receiver}

theorem read_opening_empty (h : r.decoder = .opening) :
    r.read .empty = ((r.sense .empty).codeErrorFound, .codeError) := by
  simp only [Receiver.read, h]

theorem read_opening_other {p : Polarity} (h : r.decoder = .opening) (hp : r.lastPolarity ≠ some p) :
    r.read (.pulse p) = ((r.sense (.pulse p)).codeErrorFound, .codeError) := by
  simp only [Receiver.read, h, if_neg hp]

/-- A fifth empty bit time in a frame (R122). -/
theorem read_inFrame_fifth (h : r.decoder = .inFrame) (hc : r.emptyCount = 4) :
    r.read .empty = ((r.sense .empty).codeErrorFound, .codeError) := by
  simp only [Receiver.read, h, Receiver.readInFrame, hc, Nat.lt_irrefl, if_false]

/-- A pulse of the same polarity that is neither a fill nor the end delimiter's (R122, R123). -/
theorem read_inFrame_violation {p : Polarity} (h : r.decoder = .inFrame) (hp : r.lastPolarity = some p)
    (hfill : r.emptyCount ≠ 4) (hend : ¬(r.emptyCount = 1 ∧ r.lastMark = some .contentOne)) :
    r.read (.pulse p) = ((r.sense (.pulse p)).codeErrorFound, .codeError) := by
  simp only [Receiver.read, h, Receiver.readInFrame, if_neg (not_not_intro hp), if_neg hfill, if_neg hend]

/-- What a code error leaves of the receiver, with the empty count and the last polarity of R118. -/
theorem codeErrorFound_sense (r : Receiver) (b : Symbol) :
    (r.sense b).codeErrorFound =
      { r with
        decoder := .seekIdle, assembled := [], overrun := false, lastMark := none
        emptyCount := if isPulse b = true then 0 else min (r.emptyCount + 1) 12
        lastPolarity := lastPulse r.lastPolarity [b], codeErrors := satInc r.codeErrors } := by
  cases b <;> rfl

end

/-- Settles O34: each of the four cases is a code error of Table 8-2 in the one bit time. -/
theorem codeErrorsAreCounted : Obligations.CodeErrorsAreCounted := by
  intro s b hrx hd hcase
  have hread : s.rx.read b = ((s.rx.sense b).codeErrorFound, .codeError) := by
    rcases hcase with ⟨hopen, rfl | ⟨p, rfl, hp⟩⟩ | ⟨hin, ⟨rfl, hc⟩ | ⟨p, rfl, hp, hc⟩⟩
    · exact read_opening_empty hopen
    · exact read_opening_other hopen hp
    · exact read_inFrame_fifth hin hc
    · refine read_inFrame_violation hin hp (by omega) fun ⟨hone, hmark⟩ => ?_
      rcases hc with hc | hc | hc | ⟨-, hno⟩
      · omega
      · omega
      · omega
      · exact hno hmark
  have hrun : s.rx.run [b] = some ((s.rx.sense b).codeErrorFound, .codeError) := congrArg some hread
  rw [exec_codeError_of_run hrx hd hrun, codeErrorFound_sense]
  rfl

end Sys2Proof.Machine

/-! The readback of an attempt (R127, R137): the attempt's own symbols are read back whole, and a line that departs from
them is found COLLIDED or DEAF. -/

namespace Sys2Proof.Machine

/-! ## What the receiver's reports find (R137, case 2) -/

section
variable {content : List Bool} {r : Receiver}

/-- Bits that agree with the attempt's content are no difference. -/
theorem reportFinds_of_prefix (h : r.assembled <+: content) : reportFinds content r .quiet = false :=
  decide_eq_false fun ⟨_, hne⟩ => hne (List.prefix_iff_eq_take.1 h)

/-- A byte that is not complete is not compared. -/
theorem reportFinds_of_partial (h : r.assembled.length % 8 ≠ 0) : reportFinds content r .quiet = false :=
  decide_eq_false fun hboth => h hboth.1

/-- The attempt's own frame is no finding. -/
theorem reportFinds_of_own {f : Frame} (h : judgeFrame content false = .good f) :
    reportFinds content r (.frameEnd content false) = false := by
  simp [reportFinds, h]

end

/-! ## The attempt's own symbols read back (R119, R137, case 3) -/

/-- The receiver reads the symbols one by one, with nothing found against the attempt's content, up to a frame end with
that content in the last bit time. -/
inductive ReadsBack (content : List Bool) : Receiver → List Symbol → Prop where
  | last {r r' : Receiver} {d : Symbol} (hread : r.read d = (r', .frameEnd content false)) : ReadsBack content r [d]
  | next {r r' : Receiver} {d : Symbol} {ds : List Symbol} (hread : r.read d = (r', .quiet))
      (hfinds : reportFinds content r' .quiet = false) (hrest : ReadsBack content r' ds) : ReadsBack content r (d :: ds)

section
variable {last : Polarity} {zeros : Nat} {content : List Bool} {r : Receiver}

/-- The end delimiter is read back: the bits before its last pulse leave a byte incomplete, and that pulse ends the frame
without them. -/
theorem readsBack_endDelimiter (h : r.Assembling last zeros) (hlen : r.assembled.length ≤ 696)
    (hbytes : r.assembled.length % 8 = 0) : ReadsBack r.assembled r (codeBits last zeros []) := by
  have hone := assembling_one h
  have hzero := assembling_zero hone (by decide)
  have hbits : (r.withPulse (opposite last) true .contentOne).withZero.assembled = r.assembled ++ [true, false] :=
    List.append_assoc ..
  have honeLength : (r.withPulse (opposite last) true .contentOne).assembled.length = r.assembled.length + 1 :=
    List.length_append
  have hzeroLength : (r.withPulse (opposite last) true .contentOne).withZero.assembled.length = r.assembled.length + 2 :=
    hbits ▸ List.length_append
  have hend := read_end hzero rfl rfl
  rw [hzeroLength, Nat.add_sub_cancel, hbits, List.take_left' rfl] at hend
  exact .next (read_one h (by omega)) (reportFinds_of_partial (by omega))
    (.next (read_zero hone (by decide) (by omega)) (reportFinds_of_partial (by omega)) (.last hend))

/-- Within a frame the rest of the attempt's symbols is read back (R119, R122, R123). -/
theorem readsBack_codeBits {bits : List Bool} (h : r.Assembling last zeros) (hcontent : r.assembled ++ bits = content)
    (hlen : content.length ≤ 696) (hbytes : content.length % 8 = 0) :
    ReadsBack content r (codeBits last zeros bits) := by
  induction bits generalizing last zeros r with
  | nil =>
    rw [List.append_nil] at hcontent
    subst hcontent
    exact readsBack_endDelimiter h hlen hbytes
  | cons b bs ih =>
    have hnow : r.assembled.length < 698 := by
      rw [← hcontent, List.length_append] at hlen
      omega
    have hnext : (r.assembled ++ [b]) ++ bs = content := by rw [List.append_assoc, List.singleton_append, hcontent]
    have hprefix : r.assembled ++ [b] <+: content := ⟨bs, hnext⟩
    cases b with
    | true => exact .next (read_one h hnow) (reportFinds_of_prefix hprefix) (ih (assembling_one h) hnext)
    | false =>
      rw [codeBits]
      split
      · next hzeros =>
        subst hzeros
        exact .next (read_fill h rfl hnow) (reportFinds_of_prefix hprefix) (ih (assembling_fill h) hnext)
      · next hzeros =>
        exact .next (read_zero h hzeros hnow) (reportFinds_of_prefix hprefix) (ih (assembling_zero h hzeros) hnext)

/-- The first pulse on an idle line opens a frame (R120). -/
theorem read_lineIdle_pulse (h : r.decoder = .lineIdle) (p : Polarity) :
    r.read (.pulse p) =
      ({ r with decoder := .opening, emptyCount := 0, lastPolarity := some p, assembled := [], overrun := false },
        .quiet) := by
  simp only [Receiver.read, h, Receiver.sense]

theorem read_lineIdle_empty (h : r.decoder = .lineIdle) : r.read .empty = (r.sense .empty, .quiet) := by
  simp only [Receiver.read, h]

/-- From an idle line the attempt's symbols are read back whole. -/
theorem readsBack_codeFrame (h : r.decoder = .lineIdle) (hlen : content.length ≤ 696) (hbytes : content.length % 8 = 0) :
    ReadsBack content r (codeFrame content) := by
  have hopened : r.opened.Assembling .positive 0 := ⟨rfl, rfl, rfl, Nat.zero_le 4, rfl⟩
  exact .next (read_lineIdle_pulse h .positive) (reportFinds_of_prefix List.nil_prefix)
    (.next (r' := r.opened) rfl (reportFinds_of_prefix List.nil_prefix)
      (readsBack_codeBits hopened (List.nil_append content) hlen hbytes))

end

/-! ## The judgement, one bit time at a time (R137) -/

section
variable {content : List Bool} {n : Nat} {seen missed : Bool} {r r' : Receiver} {ev : LineEvent} {b d : Symbol}
  {ds bs line : List Symbol}

/-- A bit time with a pulse exactly where one was driven, once a pulse was seen and none missed, in which the receiver
reports no finding. -/
theorem judgeAttempt_quiet (hseen : (seen || isPulse b) = true) (hb : isPulse d = isPulse b)
    (hread : r.read b = (r', .quiet)) (hfinds : reportFinds content r' .quiet = false) :
    judgeAttempt content n seen false r (d :: ds) (b :: bs) = judgeAttempt content (n + 1) true false r' ds bs := by
  simp [judgeAttempt, hread, hfinds, hseen, hb]

/-- A bit time in which a pulse is seen or was seen before, and that differs from the one driven or comes after a missed
pulse or with a finding of the receiver, is a collision. -/
theorem judgeAttempt_collided (hseen : (seen || isPulse b) = true) (hread : r.read b = (r', ev))
    (hfound : missed = true ∨ isPulse (ds.headD .empty) ≠ isPulse b ∨ reportFinds content r' ev = true) :
    judgeAttempt content n seen missed r ds (b :: bs) = some (.collided, r', ev, bs) := by
  have hmissed : missed = true → (missed || (isPulse (ds.headD .empty) && !isPulse b)) = true := fun h => by simp [h]
  simp only [judgeAttempt, hread]
  exact if_pos ⟨hseen, hfound.imp_left hmissed⟩

/-- The attempt's own frame, read back to its end, is CLEAN. -/
theorem ReadsBack.clean {f : Frame} (h : ReadsBack content r line) (hgood : judgeFrame content false = .good f) :
    ∃ r', judgeAttempt content n true false r line line = some (.clean, r', .frameEnd content false, []) := by
  induction h generalizing n with
  | @last r r' d hread => exact ⟨r', by simp [judgeAttempt, hread, reportFinds_of_own hgood]⟩
  | next hread hfinds hrest ih =>
    rw [judgeAttempt_quiet rfl rfl hread hfinds]
    exact ih

/-- A line as driven up to a bit time in which a pulse stands where none was driven, or none where one was, is COLLIDED in
that bit time. -/
theorem ReadsBack.collided {k : Nat} (h : ReadsBack content r line) (hk : k < line.length)
    (hb : isPulse b ≠ isPulse (line.getD k .empty)) :
    ∃ r' ev, judgeAttempt content n true false r line (line.take k ++ [b]) = some (.collided, r', ev, []) := by
  induction h generalizing n k with
  | last hread =>
    obtain rfl : k = 0 := Nat.lt_one_iff.1 hk
    exact ⟨_, _, judgeAttempt_collided rfl rfl (.inr (.inl hb.symm))⟩
  | next hread hfinds hrest ih =>
    cases k with
    | zero => exact ⟨_, _, judgeAttempt_collided rfl rfl (.inr (.inl hb.symm))⟩
    | succ k =>
      rw [List.take_succ_cons, List.cons_append, judgeAttempt_quiet rfl rfl hread hfinds]
      exact ih (Nat.lt_of_succ_lt_succ hk) hb

/-- An empty bit time on an idle line, with no pulse seen yet, is judged no further before the eighth. -/
theorem judgeAttempt_unseen (h : r.decoder = .lineIdle) (hn : n + 1 < 8) :
    judgeAttempt content n false missed r ds (.empty :: bs) =
      judgeAttempt content (n + 1) false (missed || isPulse (ds.headD .empty)) (r.sense .empty) ds.tail bs := by
  simp [judgeAttempt, read_lineIdle_empty h, isPulse, show n ≠ 7 by omega]

/-- The eighth bit time without a pulse is DEAF (R137, case 1). -/
theorem judgeAttempt_deaf (h : r.decoder = .lineIdle) (hn : n + 1 = 8) :
    judgeAttempt content n false missed r ds (.empty :: bs) = some (.deaf, r.sense .empty, .quiet, bs) := by
  simp [judgeAttempt, read_lineIdle_empty h, isPulse, show n = 7 by omega]

/-- Empty bit times at the beginning lead to eight in all, DEAF. -/
theorem judgeAttempt_empties {k : Nat} (h : r.decoder = .lineIdle) (hn : n + (k + 1) = 8) :
    ∃ r' ev, judgeAttempt content n false missed r ds (List.replicate (k + 1) .empty) = some (.deaf, r', ev, []) := by
  induction k generalizing n missed r ds with
  | zero => exact ⟨_, _, judgeAttempt_deaf h hn⟩
  | succ k ih =>
    rw [List.replicate_succ, judgeAttempt_unseen h (by omega)]
    exact ih h (by omega)

/-- The first pulse after a missed one is COLLIDED, if it comes before the eighth bit time is over (R137, case 2). -/
theorem judgeAttempt_late {k : Nat} (h : r.decoder = .lineIdle) (hn : n + k < 8) (p : Polarity) :
    ∃ r' ev, judgeAttempt content n false true r ds (List.replicate k .empty ++ [.pulse p]) =
      some (.collided, r', ev, []) := by
  induction k generalizing n r ds with
  | zero => exact ⟨_, _, judgeAttempt_collided rfl rfl (.inl rfl)⟩
  | succ k ih =>
    rw [List.replicate_succ, List.cons_append, judgeAttempt_unseen h (by omega), Bool.true_or]
    exact ih h (by omega)

end

/-! ## The readback of an attempt on an idle line -/

section
variable {content : List Bool} {r : Receiver}

theorem judge_own {f : Frame} (h : r.decoder = .lineIdle) (hlen : content.length ≤ 696)
    (hgood : judgeFrame content false = .good f) (hbytes : content.length % 8 = 0) :
    ∃ r', judgeAttempt content 0 false false r (codeFrame content) (codeFrame content) =
      some (.clean, r', .frameEnd content false, []) := by
  cases readsBack_codeFrame h hlen hbytes with
  | next hread hfinds hrest =>
    rw [codeFrame, judgeAttempt_quiet rfl rfl hread hfinds]
    exact hrest.clean hgood

theorem judge_mismatch {b : Symbol} {k : Nat} (h : r.decoder = .lineIdle) (hlen : content.length ≤ 696)
    (hbytes : content.length % 8 = 0) (hpos : 0 < k) (hk : k < (codeFrame content).length)
    (hb : isPulse b ≠ isPulse ((codeFrame content).getD k .empty)) :
    ∃ r' ev, judgeAttempt content 0 false false r (codeFrame content) ((codeFrame content).take k ++ [b]) =
      some (.collided, r', ev, []) := by
  obtain ⟨k, rfl⟩ := Nat.exists_eq_succ_of_ne_zero hpos.ne'
  cases readsBack_codeFrame h hlen hbytes with
  | next hread hfinds hrest =>
    rw [codeFrame, List.take_succ_cons, List.cons_append, judgeAttempt_quiet rfl rfl hread hfinds]
    exact hrest.collided (Nat.lt_of_succ_lt_succ hk) hb

theorem judge_late {k : Nat} (h : r.decoder = .lineIdle) (hpos : 1 ≤ k) (hk : k ≤ 7) (p : Polarity) :
    ∃ r' ev, judgeAttempt content 0 false false r (codeFrame content) (List.replicate k .empty ++ [.pulse p]) =
      some (.collided, r', ev, []) := by
  obtain ⟨k, rfl⟩ := Nat.exists_eq_add_of_le' hpos
  rw [List.replicate_succ, List.cons_append, judgeAttempt_unseen h (by decide)]
  exact judgeAttempt_late (n := 1) (r := r.sense .empty) h (by omega) p

/-- A start delimiter whose second pulse has the other polarity is a code error, and COLLIDED (R121, R137). -/
theorem judge_wrongDelimiter (h : r.decoder = .lineIdle) (p : Polarity) :
    ∃ r', judgeAttempt content 0 false false r (codeFrame content) [.pulse p, .pulse (opposite p)] =
      some (.collided, r', .codeError, []) := by
  have hother : some p ≠ some (opposite p) := fun heq => opposite_ne p (Option.some.inj heq).symm
  rw [codeFrame, judgeAttempt_quiet (b := .pulse p) (d := .pulse .positive) rfl rfl (read_lineIdle_pulse h p)
    (reportFinds_of_prefix List.nil_prefix)]
  exact ⟨_, judgeAttempt_collided rfl (read_opening_other rfl hother) (.inr (.inr rfl))⟩

end

/-- FRAME_RECEIVED with a line judged CLEAN in its last bit time does what ATTEMPT_CLEAN does (log entry 20). -/
theorem exec_frameReceived_of_clean {s : State} {f : Flight} {line : List Symbol} {r : Receiver} {ev : LineEvent}
    (hrx : s.rx.receiving = true) (hd : s.tx.state = .driving) (hf : s.tx.flight = some f)
    (hj : s.judge f line = some (.clean, r, ev, [])) : exec (.frameReceived line) s = exec .attemptClean s := by
  have hdriven : s.drivenFlight = some f := (if_pos hd).trans hf
  refine congrArg Host.Outcome.next ?_
  rw [frameReceived, if_neg (by simp [hrx]), hdriven]
  dsimp only
  rw [hj]

/-- Settles O29: the attempt's symbols are read back from the idle line (`readsBack_codeFrame`), and the judgement follows
them bit time by bit time up to the frame end or to the first difference. -/
theorem readbackJudgesAttempt : Obligations.ReadbackJudgesAttempt := by
  intro s f g hd hf hrx hidle hg hcontent
  have hbits : f.contentBits = bitsOfBytes (frameBytes g) := by rw [Flight.contentBits, hcontent, Option.getD_some]
  have hbytes := bodyBytes_length_le hg
  have hframe := frameBytes_length g
  have hlength := bitsOfBytes_length (frameBytes g)
  rw [← hbits] at hlength
  have hlen : f.contentBits.length ≤ 696 := by omega
  have hwhole : f.contentBits.length % 8 = 0 := by omega
  have hgood : judgeFrame f.contentBits false = .good g := hbits ▸ judgeFrame_frameBytes hg
  obtain ⟨r, hclean⟩ : ∃ r, s.judge f f.driven = some (.clean, r, _, []) := judge_own hidle hlen hgood hwhole
  exact ⟨⟨r, _, hclean⟩, exec_frameReceived_of_clean hrx hd hf hclean,
    fun k b hpos hk hb => judge_mismatch hidle hlen hwhole hpos hk hb,
    fun k p hpos hk => judge_late hidle hpos hk p, judge_wrongDelimiter hidle,
    judgeAttempt_empties (k := 7) hidle rfl⟩

end Sys2Proof.Machine

/-! What the Transmitter keeps at every command (Table 9-1, R131, R135, R141 to R144), and its single actions: an attempt
that starts or is dropped (R136), what a frame is built from (R87, R136), a collision and the back-off after it (R141), and
how requests merge in the Transmit Queue (R131 to R134). -/

namespace Sys2Proof.Machine

/-! ## Every command keeps the Transmitter consistent -/

/-- The Transmitter's consistency depends on the Transmitter and the phase alone. -/
theorem State.TxConsistent.away {s t : State} (ht : t.tx = s.tx) (hp : t.station.phase = s.station.phase)
    (h : s.TxConsistent) : t.TxConsistent := (TxStep.away ht hp).consistent h

theorem consistent_hostKept : HostKept State.TxConsistent where
  host x s := (withHost_txStep s x).consistent
  freed _ _ _ := .away rfl rfl
  plan f v s := (writePlanField_txStep f v s).consistent
  command c _ := runCommand_tx c

/-- Every command that is no data byte keeps the Transmitter consistent. -/
theorem exec_away_tx {i : Instr} {s t : State} (ha : hostAddress i = none) (h : s.TxConsistent)
    (he : exec i s = .next t) : t.TxConsistent := by
  cases i
  case irqControlWrite r v => cases r <;> cases ha
  all_goals cases ha <;> cases he
  case hardReset rst => exact hardReset_tx rst s
  case timebaseTick => exact (timebaseTick_txStep s).consistent h
  case rawConditionChange n sf sd => exact (setPins_txStep n sf sd s).consistent h
  case conditionTimerRunsOut n => exact (conditionRunsOut_txStep n s).consistent h
  case wtrTimerRunsOut n => exact (wtrRunsOut_step n s).txStep.consistent h
  case retryHoldRunsOut n => exact (retryRunsOut_step n s).txStep.consistent h
  case claimWindowEnd n => exact (windowRunsOut_step n s).txStep.consistent h
  case silenceTimerRunsOut p => exact (peerTimerRunsOut_txStep p s).consistent h
  case listenTimerRunsOut => exact (listenRunsOut_txStep s).consistent h
  case statusPeriodTimerRunsOut => exact (statusRunsOut_txStep s).consistent h
  case frameReceived line => exact frameReceived_tx line h
  case codeError line => exact codeError_tx line h
  case attemptStart => exact attemptStart_tx h
  case attemptClean => exact attemptClean_tx h
  case attemptCollided line => exact attemptCollided_tx line h
  case attemptDeaf => exact attemptDeaf_tx h
  case backOffEnd line => exact backOffEnd_tx line h
  case lineIdle line => exact lineIdle_tx line h
  case transactionBegin => exact consistent_hostKept.beginTransaction h
  case addressByte v => exact consistent_hostKept.takeAddress v h
  case transactionEnd => exact consistent_hostKept.host _ h

theorem exec_tx {i : Instr} {s t : State} (h : s.TxConsistent) (he : exec i s = .next t) : t.TxConsistent := by
  cases ha : hostAddress i with
  | some a => exact consistent_hostKept.exec_data ha h he
  | none => exact exec_away_tx ha h he

/-- Settles O4: each command keeps the Transmitter consistent, a data byte through what its write does, any other by its
own action. -/
theorem stepKeepsTransmitter : Obligations.StepKeepsTransmitter := fun _ _ =>
  step_of_exec (good := State.TxConsistent) (fun _ _ => .away rfl rfl) (fun _ => id)
    fun _ _ _ => exec_tx

/-! ## What a frame is built from (R87, R136) -/

section
variable {s : State}

/-- The held list ascends, since it is the HELD services of an ascending list. -/
theorem heldList_ascends (s : State) : (s.heldList.map Prod.fst).Pairwise (· < ·) := by
  have hservices : s.heldList.map Prod.fst = allSixteen.filter fun n => decide ((s.entry n).state = .held) := by
    rw [State.heldList, List.map_map]
    exact List.map_id _
  rw [hservices]
  exact (List.pairwise_lt_finRange 16).filter _

theorem mem_heldList {n : Service} {e : Epoch} :
    (n, e) ∈ s.heldList ↔ (s.entry n).state = .held ∧ e = (s.entry n).heldEpoch := by
  simp only [State.heldList, List.mem_map, List.mem_filter, mem_allSixteen, true_and, decide_eq_true_eq, Prod.mk.injEq]
  constructor
  · rintro ⟨_, hheld, rfl, rfl⟩
    exact ⟨hheld, rfl⟩
  · rintro ⟨hheld, rfl⟩
    exact ⟨n, hheld, rfl, rfl⟩

theorem buildBody_claim {n : Service} {e : Epoch} {r : ClaimRecord} (h : s.ownClaimAt n e = some r) :
    s.buildBody (.claim n e) = some (.claim (r.body n)) := by
  rw [State.buildBody, h, Option.map_some]

/-- The cancellation check fails (R136). -/
theorem buildBody_claim_eq_none {n : Service} {e : Epoch} (h : s.ownClaimAt n e = none) :
    s.buildBody (.claim n e) = none := by
  rw [State.buildBody, h, Option.map_none]

end

/-- Settles O24: a STATUS is read off the state, with the held list of `mem_heldList`, and a CLAIM off its own record. -/
theorem frameContents : Obligations.FrameContents := by
  intro s
  refine ⟨⟨s.statusBody, rfl, ?_, ?_, ?_, rfl, look_tabulate _, heldList_ascends s, fun _ _ => mem_heldList⟩,
    fun n e r hs hr ho he => ?_, fun _ => rfl, fun _ => rfl⟩
  · exact congrArg Phase.published
  · exact congrArg Phase.published
  · exact congrArg Phase.published
  · subst he
    exact buildBody_claim (ownClaimAt_of hs hr ho rfl)

/-! ## An attempt starts, or its CLAIM is dropped (R112, R135, R136) -/

section
variable {s : State} {f : Flight} (hw : s.tx.state = .waiting) (hp : s.station.phase.sends = true)
  (hrx : s.rx.receiving = true) (hidle : s.rx.decoder = .lineIdle) (hf : s.tx.flight = some f)
include hw hp hrx hidle hf

theorem attemptStart_of_built {body : FrameBody} (h : s.buildBody f.frame = some body) :
    attemptStart s = beginAttempt f body s := by
  simp only [attemptStart, hf, h]
  exact if_pos ⟨hw, hp, hrx, hidle⟩

/-- A frame that cannot be built is finished unsent (R136). -/
theorem attemptStart_of_cancelled (h : s.buildBody f.frame = none) : attemptStart s = finishFrame s := by
  simp only [attemptStart, hf, h]
  exact if_pos ⟨hw, hp, hrx, hidle⟩

end

/-- Settles O23: the frame that can be built begins its attempt, as the first one or as a retry. -/
theorem attemptStarts : Obligations.AttemptStarts := by
  intro s f body hw hp hrx hidle hf hbody
  have hstart : exec .attemptStart s = .next (beginAttempt f body s) :=
    congrArg Host.Outcome.next (attemptStart_of_built hw hp hrx hidle hf hbody)
  rw [hstart, beginAttempt]
  refine ⟨fun hfirst => ?_, fun hretry => ?_⟩
  · simp only [hfirst]
    rfl
  · simp only [if_neg hretry]

/-- Settles O25: the cancellation check finds no own record, and the frame is finished as any other. -/
theorem staleClaimIsDropped : Obligations.StaleClaimIsDropped := by
  intro s f n e hw hp hrx hidle hf hframe hstale
  have hnone : s.ownClaimAt n e = none := Option.eq_none_iff_forall_ne_some.2 fun r hr => by
    obtain ⟨hrecord, hclaiming, hown, hepoch⟩ := ownClaimAt_some hr
    exact hstale r hclaiming hrecord hown hepoch
  have hdropped : attemptStart s = finishFrame s :=
    attemptStart_of_cancelled hw hp hrx hidle hf (by rw [hframe, buildBody_claim_eq_none hnone])
  have hfin := finishFrame_finished hp
  refine ⟨finishFrame s, congrArg Host.Outcome.next hdropped, hfin.tx, hfin.timebase, hfin.oc, hfin.cond, hfin.peers,
    hfin.rx, hfin.pending, hfin.rstLow, fun g q hq => ?_, fun hq => ?_⟩
  · obtain ⟨hstate, hqueue, hflight⟩ := hfin.next g q hq
    exact ⟨hstate, hqueue, hflight, finishFrame_keeps_phase (.inr (takeHead_ne_empty hq))⟩
  · obtain ⟨hstate, hflight, hqueue⟩ := hfin.idle hq
    refine ⟨hstate, hqueue, hflight, fun hphase => finishFrame_keeps_phase (.inl hphase), fun hphase => ?_⟩
    rw [finishFrame_detaches hphase hq]
    rfl

/-! ## A collision and the back-off (R137, R141) -/

/-- Without a frame end in the bit time of the finding, a collision is the Transmitter's alone (R127). -/
theorem collidedWith_of_no_frameEnd {ev : LineEvent} (h : ∀ c past, ev ≠ .frameEnd c past) (f : Flight) (r : Receiver)
    (s : State) : collidedWith f r ev s = endCollided f (s.withRx r) := by
  cases ev with
  | frameEnd c past => exact absurd rfl (h c past)
  | quiet => rfl
  | idle => rfl
  | codeError => rfl

/-- Before its eighth attempt a collided frame backs off (R141). -/
theorem endCollided_of_retry {s : State} {f : Flight} (hm : s.station.phase ≠ .muted) (hlimit : f.attempts < 8) :
    endCollided f s =
      backOff s.collisionBackOff (s.withTx { s.tx with collisions := satInc s.tx.collisions, deafCount := 0 }) :=
  (if_neg hm).trans (if_pos hlimit)

/-- Settles O28: the judged collision ends the attempt, which backs off by the own ID. -/
theorem collidedAttemptBacksOff : Obligations.CollidedAttemptBacksOff := by
  intro s f line r ev hd hf hlimit hm hj hev
  have hdriven : s.drivenFlight = some f := (if_pos hd).trans hf
  have hcollided : attemptCollided line s = collidedWith f r ev s := by
    simp only [attemptCollided, hdriven, hj]
  refine congrArg Host.Outcome.next ?_
  rw [hcollided, collidedWith_of_no_frameEnd hev, endCollided_of_retry (s := s.withRx r) hm hlimit]
  rfl

/-- Settles O32: the last bit time of the back-off, quiet or the one that makes the line idle, leaves the Transmitter
WAITING. -/
theorem backOffEnds : Obligations.BackOffEnds := by
  intro s line r ev hb hleft hrx hrun hev
  refine congrArg Host.Outcome.next ?_
  rw [backOffEnd, if_pos ⟨hb, hleft, hrx⟩, hrun]
  rcases hev with rfl | rfl <;> rfl

/-! ## The first that takes an item in, or one more at the end (R133)

What an entry does to a list, and a list to the urgent class, is one operation. -/

section
variable {α : Type} {merge : α → Option α} {new : α}

/-- The first element that `merge` takes gives way to what `merge` makes of it; where it takes none, `new` stands at the
end. -/
def mergeFirst (merge : α → Option α) (new : α) : List α → List α
  | [] => [new]
  | y :: rest =>
    match merge y with
    | some z => z :: rest
    | none => y :: mergeFirst merge new rest

theorem mergeFirst_of_none {l : List α} (h : ∀ y ∈ l, merge y = none) : mergeFirst merge new l = l ++ [new] := by
  induction l with
  | nil => rfl
  | cons y rest ih =>
    obtain ⟨hy, hrest⟩ := List.forall_mem_cons.1 h
    simp only [mergeFirst, hy, ih hrest, List.cons_append]

/-- Where `merge` takes one element at most, the element that it takes is the one replaced, in its own place. -/
theorem mergeFirst_of_getElem? {l : List α} (honce : l.Pairwise fun a b => merge a = none ∨ merge b = none)
    {i : Nat} {y z : α} (hi : l[i]? = some y) (hz : merge y = some z) : mergeFirst merge new l = l.set i z := by
  induction l generalizing i with
  | nil => cases hi
  | cons a rest ih =>
    obtain ⟨ha, hrest⟩ := List.pairwise_cons.1 honce
    cases i with
    | zero =>
      cases hi
      simp only [mergeFirst, hz, List.set_cons_zero]
    | succ i =>
      have hnone : merge a = none :=
        (ha y (List.mem_of_getElem? hi)).resolve_right fun h => by rw [hz] at h; cases h
      simp only [mergeFirst, hnone, ih hrest hi, List.set_cons_succ]

/-- Of a list in which one element at most has a property, no two elements have it. -/
theorem pairwise_of_filter_length {p : α → Bool} {l : List α} (h : (l.filter p).length ≤ 1) :
    l.Pairwise fun a b => p a = false ∨ p b = false := by
  have hfilter : (l.filter p).Pairwise fun _ _ => False := by
    match l.filter p, h with
    | [], _ => exact .nil
    | [_], _ => exact List.pairwise_singleton ..
  refine (List.pairwise_filter.1 hfilter).imp fun {a b} hab => ?_
  by_contra hno
  obtain ⟨ha, hb⟩ := not_or.1 hno
  exact hab (Bool.eq_true_of_not_eq_false ha) (Bool.eq_true_of_not_eq_false hb)

/-! ## An entry in a list (R133) -/

/-- The entry `x` takes the place of one for its service. -/
def takePlace (service : α → Service) (x y : α) : Option α := if service y = service x then some x else none

theorem takePlace_of_same {service : α → Service} {x y : α} (h : service y = service x) :
    takePlace service x y = some x := if_pos h

theorem takePlace_of_ne {service : α → Service} {x y : α} (h : service y ≠ service x) :
    takePlace service x y = none := if_neg h

/-- A list that names no service twice has one place at most for an entry. -/
theorem takePlace_once {service : α → Service} {l : List α} (h : (l.map service).Nodup) (x : α) :
    l.Pairwise fun a b => takePlace service x a = none ∨ takePlace service x b = none := by
  refine (List.pairwise_map.1 h).imp fun {a b} hab => ?_
  by_cases ha : service a = service x
  · exact .inr (takePlace_of_ne fun hb => hab (ha.trans hb.symm))
  · exact .inl (takePlace_of_ne ha)

end

theorem joinRelease_eq_mergeFirst (x : ReleaseEntry) (es : List ReleaseEntry) :
    joinRelease x es = mergeFirst (takePlace ReleaseEntry.service x) x es := by
  induction es with
  | nil => rfl
  | cons y rest ih =>
    by_cases h : y.service = x.service
    · simp only [joinRelease, mergeFirst, if_pos h, takePlace_of_same h]
    · simp only [joinRelease, mergeFirst, if_neg h, takePlace_of_ne h, ih]

theorem joinObject_eq_mergeFirst (x : ObjectEntry) (es : List ObjectEntry) :
    joinObject x es = mergeFirst (takePlace ObjectEntry.service x) x es := by
  induction es with
  | nil => rfl
  | cons y rest ih =>
    by_cases h : y.service = x.service
    · simp only [joinObject, mergeFirst, if_pos h, takePlace_of_same h]
    · simp only [joinObject, mergeFirst, if_neg h, takePlace_of_ne h, ih]

/-! ## A frame in the urgent class (R131, R133) -/

/-- A queued RELEASE takes the entry into its list. -/
def takeRelease (x : ReleaseEntry) : UrgentFrame → Option UrgentFrame
  | .release es => some (.release (joinRelease x es))
  | .object _ => none

/-- A queued OBJECT takes the entry into its list. -/
def takeObject (x : ObjectEntry) : UrgentFrame → Option UrgentFrame
  | .object es => some (.object (joinObject x es))
  | .release _ => none

theorem addRelease_eq_mergeFirst (x : ReleaseEntry) (us : List UrgentFrame) :
    addRelease x us = mergeFirst (takeRelease x) (.release [x]) us := by
  induction us with
  | nil => rfl
  | cons u rest ih =>
    cases u with
    | release es => rfl
    | object es => exact congrArg _ ih

theorem addObject_eq_mergeFirst (x : ObjectEntry) (us : List UrgentFrame) :
    addObject x us = mergeFirst (takeObject x) (.object [x]) us := by
  induction us with
  | nil => rfl
  | cons u rest ih =>
    cases u with
    | release es => exact congrArg _ ih
    | object es => rfl

theorem takeRelease_of_other {x : ReleaseEntry} {u : UrgentFrame} (h : u.isRelease = false) : takeRelease x u = none := by
  cases u with
  | release es => cases h
  | object es => rfl

theorem takeObject_of_other {x : ObjectEntry} {u : UrgentFrame} (h : (!u.isRelease) = false) : takeObject x u = none := by
  cases u with
  | release es => rfl
  | object es => cases h

section
variable {q : TxQueue} (h : q.Limited)
include h

theorem TxQueue.Limited.release_at {i : Nat} {es : List ReleaseEntry} (hi : q.urgent[i]? = some (.release es))
    (x : ReleaseEntry) : (q.addRelease x).urgent = q.urgent.set i (.release (joinRelease x es)) := by
  have honce : q.urgent.Pairwise fun a b => takeRelease x a = none ∨ takeRelease x b = none :=
    (pairwise_of_filter_length h.releases).imp (.imp takeRelease_of_other takeRelease_of_other)
  rw [TxQueue.addRelease, addRelease_eq_mergeFirst]
  exact mergeFirst_of_getElem? honce hi rfl

theorem TxQueue.Limited.object_at {i : Nat} {es : List ObjectEntry} (hi : q.urgent[i]? = some (.object es))
    (x : ObjectEntry) : (q.addObject x).urgent = q.urgent.set i (.object (joinObject x es)) := by
  have honce : q.urgent.Pairwise fun a b => takeObject x a = none ∨ takeObject x b = none :=
    (pairwise_of_filter_length h.objects).imp (.imp takeObject_of_other takeObject_of_other)
  rw [TxQueue.addObject, addObject_eq_mergeFirst]
  exact mergeFirst_of_getElem? honce hi rfl

end

theorem addRelease_of_no_release {us : List UrgentFrame} (h : ∀ es, UrgentFrame.release es ∉ us) (x : ReleaseEntry) :
    addRelease x us = us ++ [.release [x]] := by
  rw [addRelease_eq_mergeFirst]
  refine mergeFirst_of_none fun u hu => ?_
  cases u with
  | release es => exact absurd hu (h es)
  | object es => rfl

theorem addObject_of_no_object {us : List UrgentFrame} (h : ∀ es, UrgentFrame.object es ∉ us) (x : ObjectEntry) :
    addObject x us = us ++ [.object [x]] := by
  rw [addObject_eq_mergeFirst]
  refine mergeFirst_of_none fun u hu => ?_
  cases u with
  | release es => rfl
  | object es => exact absurd hu (h es)

theorem joinRelease_of_new {x : ReleaseEntry} {es : List ReleaseEntry} (h : ∀ y ∈ es, y.service ≠ x.service) :
    joinRelease x es = es ++ [x] := by
  rw [joinRelease_eq_mergeFirst]
  exact mergeFirst_of_none fun y hy => takePlace_of_ne (h y hy)

theorem joinObject_of_new {x : ObjectEntry} {es : List ObjectEntry} (h : ∀ y ∈ es, y.service ≠ x.service) :
    joinObject x es = es ++ [x] := by
  rw [joinObject_eq_mergeFirst]
  exact mergeFirst_of_none fun y hy => takePlace_of_ne (h y hy)

theorem joinRelease_at {x y : ReleaseEntry} {es : List ReleaseEntry} (hes : (es.map ReleaseEntry.service).Nodup)
    {j : Nat} (hj : es[j]? = some y) (hy : y.service = x.service) : joinRelease x es = es.set j x := by
  rw [joinRelease_eq_mergeFirst]
  exact mergeFirst_of_getElem? (takePlace_once hes x) hj (takePlace_of_same hy)

theorem joinObject_at {x y : ObjectEntry} {es : List ObjectEntry} (hes : (es.map ObjectEntry.service).Nodup)
    {j : Nat} (hj : es[j]? = some y) (hy : y.service = x.service) : joinObject x es = es.set j x := by
  rw [joinObject_eq_mergeFirst]
  exact mergeFirst_of_getElem? (takePlace_once hes x) hj (takePlace_of_same hy)

/-! ## The head by class (R131) -/

theorem takeHead_release {q : TxQueue} {es : List ReleaseEntry} {us : List UrgentFrame}
    (h : q.urgent = .release es :: us) : q.takeHead = some (.release es, { q with urgent := us }) := by
  rw [TxQueue.takeHead, h]

theorem takeHead_object {q : TxQueue} {es : List ObjectEntry} {us : List UrgentFrame}
    (h : q.urgent = .object es :: us) : q.takeHead = some (.object es, { q with urgent := us }) := by
  rw [TxQueue.takeHead, h]

theorem takeHead_claim {q : TxQueue} {n : Service} {e : Epoch} {cs : List (Service × Epoch)} (hu : q.urgent = [])
    (hc : q.claims = (n, e) :: cs) : q.takeHead = some (.claim n e, { q with claims := cs }) := by
  rw [TxQueue.takeHead, hu, hc]

theorem takeHead_status {q : TxQueue} (hu : q.urgent = []) (hc : q.claims = []) (hs : q.status = true) :
    q.takeHead = some (.status, { q with status := false }) := by
  rw [TxQueue.takeHead, hu, hc, hs]

/-- Settles O46: within the limits one frame at most takes an entry in, and one place at most in its list, so that each
merge has its place. -/
theorem queueMerges : Obligations.QueueMerges := by
  intro q h
  refine ⟨h.size_le, ⟨h.addStatus, rfl⟩, fun x => ⟨h.addRelease x, rfl, rfl, (addRelease_of_no_release · x), ?_⟩,
    fun x => ⟨h.addObject x, rfl, rfl, (addObject_of_no_object · x), ?_⟩, fun n e => ⟨h.addClaim n e, rfl⟩,
    takeHead_none, fun _ _ => takeHead_release, fun _ _ => takeHead_object, fun _ _ _ => takeHead_claim,
    takeHead_status⟩
  · intro i es hi
    have hes := (h.lists _ (List.mem_of_getElem? hi)).2
    rw [h.release_at hi x]
    exact ⟨fun hnew => by rw [joinRelease_of_new hnew], fun j y hj hy => by rw [joinRelease_at hes hj hy]⟩
  · intro i es hi
    have hes := (h.lists _ (List.mem_of_getElem? hi)).2
    rw [h.object_at hi x]
    exact ⟨fun hnew => by rw [joinObject_of_new hnew], fun j y hj hy => by rw [joinObject_at hes hj hy]⟩

end Sys2Proof.Machine

/-! The transactions of the Host Port (R147, R148): what a byte taken or fetched leaves, pops of the Event Queue (R154), and
the writes that act at once or are discarded (R148, R155). -/

namespace Sys2Proof.Machine

/-! ## A byte clocked in a transaction (R147) -/

section
variable {s : State} {take : State → State}

theorem dataByte_of_read {a : HostAddress} (h : s.host.txn = .data .read a) (take : State → State) :
    dataByte a take s = fetchByte a s := by
  unfold dataByte
  rw [h]
  exact if_pos rfl

/-- No byte is clocked where the transaction awaits none (R147; log entry 1). -/
theorem dataByte_elsewhere {a : HostAddress} (h : ∀ dir, s.host.txn ≠ .data dir a) (take : State → State) :
    dataByte a take s = s := by
  unfold dataByte
  split
  · next cur hw =>
    rw [if_neg]
    rintro rfl
    exact h .write hw
  · next cur hr =>
    rw [if_neg]
    rintro rfl
    exact h .read hr
  · rfl
  · rfl

/-- A byte taken whose action leaves the transaction to R147: the address moves on after it. -/
theorem dataByte_taken {a : HostAddress} (h : s.host.txn = .data .write a) (ht : (take s).host.txn = s.host.txn) :
    dataByte a take s = (take s).withHost { (take s).host with txn := .data .write (nextAddress a) } := by
  rw [dataByte_of_write h, moveAddress_of_data (ht.trans h)]

/-- A byte that is accepted and writes the Host Port alone (R149, R151). -/
theorem dataByte_done {a : BitVec 7} {x : HostPort} (h : s.host.txn = .data .write (.at a))
    (ht : take s = setResult .done (s.withHost x)) (hx : x.txn = s.host.txn) :
    dataByte (.at a) take s =
      s.withHost { x with result := .done, txn := .data .write (nextAddress (.at a)) } := by
  rw [dataByte_taken h (by rw [ht]; exact hx), ht]
  rfl

/-- A byte that is answered with its result alone (R149, R151). -/
theorem dataByte_answered {a : BitVec 7} {r : CommandResult} (h : s.host.txn = .data .write (.at a))
    (ht : take s = setResult r s) : dataByte (.at a) take s = s.answered a r := by
  rw [dataByte_of_write h, ht, moveAddress_setResult h]

/-- A byte fetched in a read transaction: the address moves on after it (R147). -/
theorem moveAddress_fetched {cur : HostAddress} (h : s.host.txn = .data .read cur) (a : HostAddress) (b : Byte) :
    moveAddress a (s.withHost { s.host with fetched := some b }) =
      s.withHost { s.host with fetched := some b, txn := .data .read (nextAddress a) } :=
  moveAddress_of_data (s := s.withHost { s.host with fetched := some b }) h a

theorem fetchByte_of_ne {a : HostAddress} (h : s.host.txn = .data .read a) (ha : a ≠ .at addrPop) :
    fetchByte a s =
      s.withHost { s.host with fetched := some (hostRead s a), txn := .data .read (nextAddress a) } := by
  rw [fetchByte, if_neg ha, moveAddress_fetched h]

end

/-! ## Pops of the Event Queue (R154) -/

section
variable {s : State}

theorem popEvent_txn (s : State) : (popEvent s).host.txn = s.host.txn := by
  unfold popEvent
  split
  · rfl
  · split <;> rfl

/-- A read of the pop byte pops, and fetches the kind of what was popped (R147, R154). -/
theorem exec_eventPop_of_read (h : s.host.txn = .data .read (.at 0x44)) :
    exec .eventPop s =
      .next
        ((popEvent s).withHost
          { (popEvent s).host with
            fetched := some (byteOf s.host.popKind.code), txn := .data .read (.at 0x45) }) := by
  have hfetch : fetchByte (.at addrPop) s = fetchPop s := if_pos rfl
  refine congrArg Host.Outcome.next ((dataByte_of_read (a := .at addrPop) h _).trans (hfetch.trans ?_))
  exact moveAddress_fetched ((popEvent_txn s).trans h) _ _

theorem popEvent_of_nil (h : s.host.events = []) :
    popEvent s =
      { s with
        host := { s.host with latch := noneRecord (Config.noneTimestamp s.freeCount) }
        freeCount := s.freeCount + 1 } := by
  unfold popEvent
  rw [h]

theorem popEvent_of_cons {e : EventRecord} {rest : List EventRecord} (h : s.host.events = e :: rest)
    (hl : s.host.lost = 0) :
    popEvent s =
      s.withHost { s.host with events := rest, latch := e, irq := s.host.irqEnable && !rest.isEmpty } := by
  unfold popEvent
  rw [h]
  exact if_pos hl

theorem popEvent_of_lost {e : EventRecord} {rest : List EventRecord} (h : s.host.events = e :: rest)
    (hl : s.host.lost ≠ 0) :
    popEvent s =
      s.withHost
        { s.host with
          events := rest ++ [s.event .eventsLost none none none (some (.count s.host.lost))], latch := e, lost := 0
          irq := s.host.irqEnable } := by
  have hirq : (s.host.irqEnable && !(rest ++ [lostRecord s.timebase s.host.lost]).isEmpty) = s.host.irqEnable := by
    simp
  unfold popEvent
  rw [h]
  simp only [if_neg hl, HostPort.refreshIrq, HostPort.irqLevel, hirq]
  rfl

theorem HostPort.popKind_eq (h : HostPort) : h.popKind = (h.events.head?.map fun e => e.kind).getD .none := by
  unfold HostPort.popKind
  cases h.events <;> rfl

end

/-- Settles O57, by the three cases of a pop: an empty queue, a queue that lost nothing, and one whose freed slot takes
EVENTS_LOST. -/
theorem eventPops : Obligations.EventPops := by
  intro s htxn
  refine ⟨fun e rest he hl => ?_, fun e rest he hl => ?_, fun he => ⟨_, exec_eventPop_of_read htxn, ?_⟩⟩
  · rw [exec_eventPop_of_read htxn, popEvent_of_cons he hl, HostPort.popKind_eq, he]
    rfl
  · rw [exec_eventPop_of_read htxn, popEvent_of_lost he hl, HostPort.popKind_eq, he]
    rfl
  · rw [popEvent_of_nil he, HostPort.popKind_eq, he]
    exact ⟨rfl, rfl, rfl, rfl, rfl, rfl, rfl⟩

/-! ## Writes that act at once, and writes that are discarded (R148, R155) -/

/-- A byte written to a read-only address or to no window is discarded (R148, Table 11-5). -/
theorem writeByte_discarded {a : BitVec 7} (v : Byte) (s : State)
    (h : a.toNat ∉ [0x0C, 0x0D, 0x0F, 0x10, 0x11, 0x12, 0x13, 0x14, 0x15, 0x16, 0x17, 0x18, 0x2B, 0x4D]) :
    writeByte a v s = s := by
  unfold writeByte
  split
  on_goal 15 => rfl
  all_goals
    next ha =>
      rw [ha] at h
      exact absurd h (by decide)

/-- Settles O58: each byte is taken at its address by its own action, which leaves the transaction alone. -/
theorem registerWrites : Obligations.RegisterWrites := by
  intro s v
  refine ⟨fun h => ?_, fun h => ?_, fun h => ?_, fun a ha h => ?_, fun h => ?_, fun h => ?_⟩
  · exact congrArg Host.Outcome.next (dataByte_taken h rfl)
  · exact congrArg Host.Outcome.next (dataByte_taken h rfl)
  · exact congrArg Host.Outcome.next (dataByte_taken h rfl)
  · have htake : writeAddress (.at a) v s = s := writeByte_discarded v s ha
    refine congrArg Host.Outcome.next ?_
    rw [registerWrite, dataByte_taken h (by rw [htake]), htake]
  · exact congrArg Host.Outcome.next (dataByte_taken h rfl)
  · refine congrArg Host.Outcome.next ((dataByte_taken h rfl).trans ?_)
    rw [← show s.host.txn = .data .write (nextAddress .pastEnd) from h]
    rfl

/-! ## Transactions (R147) -/

/-- An address that is not the last of its window, nor 7Fh, which lies in none (Table 11-5). -/
theorem toNat_lt_windowEnd_iff (a : BitVec 7) : a.toNat < windowEnd a ↔
    a.toNat ∉ [0x02, 0x0B, 0x0D, 0x0E, 0x10, 0x17, 0x2A, 0x43, 0x4C, 0x7E, 0x7F] := by
  have ha := a.isLt
  simp only [List.mem_cons, List.not_mem_nil, or_false]
  unfold windowEnd
  dsimp only
  repeat' split
  all_goals omega

theorem beginTransaction_of_idle {s : State} (h : s.host.txn = .idle) (hr : s.rstLow = false) :
    beginTransaction s = s.withHost { s.host with txn := .address, fetched := none } := by
  unfold beginTransaction
  rw [h, hr]
  rfl

theorem beginTransaction_ignored {s : State} (h : s.host.txn ≠ .idle ∨ s.rstLow = true) : beginTransaction s = s := by
  unfold beginTransaction
  split
  · next hidle => exact if_pos (h.resolve_left (not_not_intro hidle))
  · rfl
  · rfl

theorem addressOf_eq (v : Byte) : addressOf v = BitVec.ofNat 7 (v.toNat % 128) := by
  apply BitVec.eq_of_toNat_eq
  simp [addressOf]

theorem takeAddress_of_address {s : State} (h : s.host.txn = .address) (v : Byte) :
    takeAddress v s = s.withHost { s.host with txn := .data (directionOf v) (.at (addressOf v)) } := by
  unfold takeAddress
  rw [h]

theorem takeAddress_ignored {s : State} (h : s.host.txn ≠ .address) (v : Byte) : takeAddress v s = s := by
  unfold takeAddress
  split
  · next ha => exact absurd ha h
  · rfl
  · rfl

/-- Settles O59, by the three states of the transaction and the windows of Table 11-5. -/
theorem transactions : Obligations.Transactions := by
  refine ⟨fun s => ⟨fun h hr => ?_, fun h => ?_, fun v => ⟨fun h => ?_, fun h => ?_⟩, fun c a hc h => ?_, rfl⟩, rfl,
    fun a => ?_⟩
  · exact congrArg Host.Outcome.next (beginTransaction_of_idle h hr)
  · exact congrArg Host.Outcome.next (beginTransaction_ignored h)
  · refine congrArg Host.Outcome.next ?_
    rw [takeAddress_of_address h, addressOf_eq, directionOf]
  · exact congrArg Host.Outcome.next (takeAddress_ignored h v)
  · obtain ⟨take, htake⟩ := exec_eq_dataByte hc
    rw [htake, dataByte_elsewhere h]
  · have hnext : a + 1 = BitVec.ofNat 7 (a.toNat + 1) := by
      apply BitVec.eq_of_toNat_eq
      simp
    rw [nextAddress, ite_congr (propext (toNat_lt_windowEnd_iff a)) (fun _ => rfl) (fun _ => rfl), ite_not, hnext]

end Sys2Proof.Machine

/-! The host window map (R148, R151, R158, Tables 11-5 to 11-10): every byte that a read fetches, window by window, and
every byte of the copies that the snapshot selects make. -/

namespace Sys2Proof.Machine

/-! ## Flags and numbers in a byte (R157, R158) -/

/-- The number whose binary digits are the given flags, the first one at bit 0. -/
def flagNumber : List Bool → Nat
  | [] => 0
  | b :: bs => bit b + 2 * flagNumber bs

theorem bit_eq_toNat (b : Bool) : bit b = b.toNat := by cases b <;> rfl

theorem flagNumber_testBit (bs : List Bool) (i : Nat) : (flagNumber bs).testBit i = bs.getD i false := by
  induction bs generalizing i with
  | nil => simp [flagNumber]
  | cons b bs ih =>
    have hbit : flagNumber (b :: bs) = Nat.bit b (flagNumber bs) := by
      rw [flagNumber, Nat.bit_val, bit_eq_toNat, Nat.add_comm]
    rw [hbit]
    cases i with
    | zero => simp
    | succ i => rw [Nat.testBit_bit_succ, ih, List.getD_cons_succ]

theorem flagNumber_lt (bs : List Bool) : flagNumber bs < 2 ^ bs.length := by
  induction bs with
  | nil => decide
  | cons b bs ih =>
    have hb : bit b ≤ 1 := by cases b <;> decide
    rw [flagNumber, List.length_cons, Nat.pow_succ]
    omega

theorem byteOf_flagNumber_getLsbD (bs : List Bool) {i : Nat} (hi : i < 8) :
    (byteOf (flagNumber bs)).getLsbD i = bs.getD i false := by
  rw [byteOf, BitVec.getLsbD_ofNat, flagNumber_testBit]
  simp [hi]

theorem byteOf_flagNumber_lt {bs : List Bool} : (byteOf (flagNumber bs)).toNat < 2 ^ bs.length :=
  (Nat.mod_le _ _).trans_lt (flagNumber_lt bs)

theorem toNat_hiByte_loByte {w : Word16} {hi lo : Byte} (hhi : hi = hiByte w) (hlo : lo = loByte w) :
    hi.toNat * 256 + lo.toNat = w.toNat := by
  subst hhi hlo
  have hw := w.isLt
  simp only [hiByte, loByte, BitVec.toNat_ofNat]
  omega

theorem loByte_getLsbD (w : Word16) {i : Nat} (hi : i < 8) : (loByte w).getLsbD i = w.getLsbD i := by
  rw [loByte, BitVec.getLsbD_ofNat, show 256 = 2 ^ 8 from rfl, Nat.testBit_mod_two_pow, BitVec.testBit_toNat]
  simp [hi]

theorem hiByte_getLsbD (w : Word16) {i : Nat} (hi : i < 8) : (hiByte w).getLsbD i = w.getLsbD (i + 8) := by
  rw [hiByte, BitVec.getLsbD_ofNat, show 256 = 2 ^ 8 from rfl, Nat.testBit_div_two_pow, BitVec.testBit_toNat]
  simp [hi]

theorem optByte_byteOf (o : Option Nat) : optByte (o.map byteOf) = byteOf (o.getD 0) := by cases o <;> rfl

theorem byteOfIndex_toNat (i : Fin 16) : (byteOfIndex i).toNat = i.val := byteOf_toNat (by omega)

/-! ## The host window map (R148, R158, Table 11-5) -/

theorem hostRead_at (s : State) {k : Nat} (hk : k < 128) :
    hostRead s (.at (BitVec.ofNat 7 k)) = s.hostBytes.getD k 0 := by
  show s.hostBytes.getD (BitVec.ofNat 7 k).toNat 0 = _
  rw [BitVec.toNat_ofNat, Nat.mod_eq_of_lt hk]

/-- The bytes after a first part of a known length. -/
theorem getD_past {α : Type} {xs ys : List α} {d : α} (l : Nat) (hl : xs.length = l) (k : Nat) :
    (xs ++ ys).getD (l + k) d = ys.getD k d := by
  rw [List.getD_append_right _ _ _ _ (by omega), hl, Nat.add_sub_cancel_left]

/-- The bytes from the Service snapshot select on, 18h to 7Eh. -/
def State.snapshotBytes (s : State) : List Byte :=
  (byteOfIndex s.host.serviceSnap.select :: s.host.serviceSnap.bytes.toList) ++
    ((byteOfIndex s.host.counterSnap.select :: s.host.counterSnap.bytes.toList) ++
      ((byteOf s.host.popKind.code :: s.host.latch.latchBytes) ++
        (byteOfIndex s.host.peerSnap.select :: s.host.peerSnap.bytes.toList)))

theorem hostBytes_eq (s : State) : s.hostBytes = s.lowBytes ++ s.snapshotBytes := by
  simp only [State.hostBytes, State.snapshotBytes, List.append_assoc, List.cons_append]

section
variable (s : State)

theorem hostRead_low {k : Nat} (hk : k < 24) : hostRead s (.at (BitVec.ofNat 7 k)) = s.lowBytes.getD k 0 := by
  rw [hostRead_at s (by omega), hostBytes_eq, List.getD_append _ _ _ _ hk]

theorem hostRead_service {k : Nat} (hk : k < 19) : hostRead s (.at (BitVec.ofNat 7 (0x18 + k))) =
    (byteOfIndex s.host.serviceSnap.select :: s.host.serviceSnap.bytes.toList).getD k 0 := by
  rw [hostRead_at s (by omega), hostBytes_eq, getD_past 24 rfl, State.snapshotBytes,
    List.getD_append _ _ _ _ (by simpa using hk)]

theorem hostRead_counter {k : Nat} (hk : k < 25) : hostRead s (.at (BitVec.ofNat 7 (0x2B + k))) =
    (byteOfIndex s.host.counterSnap.select :: s.host.counterSnap.bytes.toList).getD k 0 := by
  rw [hostRead_at s (by omega), hostBytes_eq, show 0x2B + k = 24 + (19 + k) by omega, getD_past 24 rfl,
    State.snapshotBytes, getD_past 19 (by simp), List.getD_append _ _ _ _ (by simpa using hk)]

theorem hostRead_event {k : Nat} (hk : k < 9) : hostRead s (.at (BitVec.ofNat 7 (0x44 + k))) =
    (byteOf s.host.popKind.code :: s.host.latch.latchBytes).getD k 0 := by
  rw [hostRead_at s (by omega), hostBytes_eq, show 0x44 + k = 24 + (19 + (25 + k)) by omega,
    getD_past 24 rfl, State.snapshotBytes, getD_past 19 (by simp), getD_past 25 (by simp), List.getD_append _ _ _ _ hk]

theorem hostRead_peer {k : Nat} (hk : k < 51) : hostRead s (.at (BitVec.ofNat 7 (0x4D + k))) =
    (byteOfIndex s.host.peerSnap.select :: s.host.peerSnap.bytes.toList).getD k 0 := by
  rw [hostRead_at s (by omega), hostBytes_eq, show 0x4D + k = 24 + (19 + (25 + (9 + k))) by omega,
    getD_past 24 rfl, State.snapshotBytes, getD_past 19 (by simp), getD_past 25 (by simp), getD_past 9 rfl]

end

/-- A byte of a snapshot buffer, read after the select of its window. -/
theorem getD_buffer {n : Nat} (x : Byte) (v : Vector Byte n) (i : Fin n) :
    (x :: v.toList).getD (1 + i.val) 0 = v[i] := by
  simp [Nat.add_comm 1]

theorem livePeers_le (s : State) : s.livePeers ≤ 16 := List.length_filter_le _ _

/-! ## The bytes of flags (Tables 11-5 and 11-7) -/

theorem byteOf_fourFlags {b₀ b₁ b₂ b₃ : Bool} {v : Byte} (h : v = byteOf (flagNumber [b₀, b₁, b₂, b₃])) :
    v.getLsbD 0 = b₀ ∧ v.getLsbD 1 = b₁ ∧ v.getLsbD 2 = b₂ ∧ v.getLsbD 3 = b₃ ∧ v.toNat < 16 := by
  subst h
  exact ⟨byteOf_flagNumber_getLsbD _ (by decide), byteOf_flagNumber_getLsbD _ (by decide),
    byteOf_flagNumber_getLsbD _ (by decide), byteOf_flagNumber_getLsbD _ (by decide), byteOf_flagNumber_lt⟩

theorem hostRead_classMask (s : State) : hostRead s (.at 0x10) =
    byteOf (flagNumber [s.host.mask.service, s.host.mask.condition, s.host.mask.peer, s.host.mask.station]) := by
  refine (hostRead_low s (k := 0x10) (by decide)).trans (congrArg byteOf ?_)
  simp only [flagNumber]
  omega

theorem PlanRecord.flagsByte_eq (r : PlanRecord) : r.flagsByte = byteOf (flagNumber [r.defined, r.revertive]) := rfl

theorem EventRecord.presence_eq (e : EventRecord) : e.presence =
    byteOf (flagNumber [e.service.isSome, e.peer.isSome, e.epoch.isSome, e.detail.isSome]) := by
  refine congrArg byteOf ?_
  simp only [flagNumber]
  omega

/-! ## Reads -/

theorem optByte_index_toNat (o : Option (Fin 16)) :
    (optByte (o.map byteOfIndex)).toNat = (o.map fun i => i.val).getD 0 := by
  cases o with
  | none => rfl
  | some i => exact byteOfIndex_toNat i

/-- The row of a data byte in a read transaction at its address stands for the fetch of that byte, whatever the row
writes (R147; log entry 10). -/
theorem exec_of_read {c : Instr} {a : HostAddress} {s : State} (hc : hostAddress c = some a)
    (h : s.host.txn = .data .read a) : exec c s = .next (fetchByte a s) := by
  obtain ⟨take, htake⟩ := exec_eq_dataByte hc
  rw [htake, dataByte_of_read h]

/-- Settles O60: the windows lie one after another in the map, so that each byte is read at its place in its window. -/
theorem hostReads : Obligations.HostReads := by
  refine ⟨fun s => ?_, by decide, by decide, fun _ => rfl⟩
  have hservice := fun k (hk : k < 19) => hostRead_service s hk
  have hcounter := fun k (hk : k < 25) => hostRead_counter s hk
  have hevent := fun k (hk : k < 9) => hostRead_event s hk
  have hpeer := fun k (hk : k < 51) => hostRead_peer s hk
  refine ⟨rfl, rfl, rfl, ?phase, ?isolated, byteOfIndex_toNat _, byteOf_toNat ((livePeers_le s).trans_lt (by decide)),
    rfl, toNat_hiByte_loByte rfl rfl, fun h => byteOf_toNat (h.trans_lt (by decide)),
    fun h => byteOf_toNat (h.trans_lt (by decide)), rfl, rfl, rfl, ?result, ?enable,
    byteOf_fourFlags (hostRead_classMask s), byteOfIndex_toNat _, ?flags, rfl, byteOf_toNat (by omega), rfl, rfl,
    byteOfIndex_toNat _, ?serviceSelect, ?counterSelect, ?peerSelect,
    fun i => ?serviceByte, fun i => ?counterByte, fun i => ?peerByte, ?pop, hevent 1 (by decide),
    byteOf_fourFlags ((hevent 2 (by decide)).trans s.host.latch.presence_eq),
    toNat_hiByte_loByte (hevent 3 (by decide)) (hevent 4 (by decide)), ?service, ?peer, hevent 7 (by decide),
    hevent 8 (by decide), ?unmapped, rfl, fun c a hc hread => ⟨fun ha => ?fetch, ?fetchPop⟩⟩
  case phase =>
    rw [show hostRead s (.at 0x03) = byteOf s.station.phase.code from rfl]
    cases s.station.phase <;> rfl
  case isolated =>
    rw [show hostRead s (.at 0x04) = byteOf (bit s.peers.isolated) from rfl]
    cases s.peers.isolated <;> rfl
  case result =>
    rw [show hostRead s (.at 0x0E) = byteOf s.host.result.code from rfl]
    cases s.host.result <;> rfl
  case enable =>
    rw [show hostRead s (.at 0x0F) = byteOf (bit s.host.irqEnable) from rfl]
    cases s.host.irqEnable <;> rfl
  case flags =>
    rw [show hostRead s (.at 0x12) = byteOf (flagNumber [_, _]) from (s.planOf s.host.planSelect).flagsByte_eq]
    exact ⟨byteOf_flagNumber_getLsbD _ (by decide), byteOf_flagNumber_getLsbD _ (by decide), byteOf_flagNumber_lt⟩
  case serviceSelect =>
    exact (congrArg BitVec.toNat (hservice 0 (by decide))).trans (byteOfIndex_toNat _)
  case counterSelect =>
    exact (congrArg BitVec.toNat (hcounter 0 (by decide))).trans (byteOfIndex_toNat _)
  case peerSelect =>
    exact (congrArg BitVec.toNat (hpeer 0 (by decide))).trans (byteOfIndex_toNat _)
  case serviceByte =>
    rw [show 0x19 + i.val = 0x18 + (1 + i.val) by omega, hservice _ (by omega), getD_buffer]
  case counterByte =>
    rw [show 0x2C + i.val = 0x2B + (1 + i.val) by omega, hcounter _ (by omega), getD_buffer]
  case peerByte =>
    rw [show 0x4E + i.val = 0x4D + (1 + i.val) by omega, hpeer _ (by omega), getD_buffer]
  case pop =>
    rw [← HostPort.popKind_eq]
    exact hevent 0 (by decide)
  case service =>
    exact (congrArg BitVec.toNat (hevent 5 (by decide))).trans (optByte_index_toNat _)
  case peer =>
    exact (congrArg BitVec.toNat (hevent 6 (by decide))).trans (optByte_index_toNat _)
  case unmapped => exact (hpeer 50 (by decide)).trans (List.getD_eq_default _ _ (by simp))
  case fetch => rw [exec_of_read hc hread, fetchByte_of_ne hread ha]
  case fetchPop =>
    rintro rfl
    rw [exec_of_read hc hread, exec_of_read (c := .eventPop) rfl hread]

/-! ## The selects of the snapshots (R151) -/

section
variable {s : State} {v : Byte} {n : Fin 16}

theorem selectService_of_index (h : v.toNat = n.val) : selectService v s =
    setResult .done
      (s.withHost { s.host with serviceSnap := { select := n, bytes := bufferOf 18 (s.serviceBytes n) } }) := by
  unfold selectService
  rw [indexOfByte_of_toNat h]

theorem selectPeer_of_index (h : v.toNat = n.val) : selectPeer v s =
    setResult .done
      (s.withHost { s.host with peerSnap := { select := n, bytes := bufferOf 49 (s.peerBytes n) } }) := by
  unfold selectPeer
  rw [indexOfByte_of_toNat h]

theorem selectCounter_of_index (h : v.toNat = n.val) : selectCounter v s =
    setResult .done
      (s.withHost { s.host with counterSnap := { select := n, bytes := bufferOf 24 (s.counterBytes n) } }) := by
  unfold selectCounter
  rw [indexOfByte_of_toNat h]

theorem selectService_refused (h : 15 < v.toNat) : selectService v s = setResult .refusedArg s := by
  unfold selectService
  rw [indexOfByte_eq_none h]

theorem selectPeer_refused (h : 15 < v.toNat) : selectPeer v s = setResult .refusedArg s := by
  unfold selectPeer
  rw [indexOfByte_eq_none h]

theorem selectCounter_refused (h : 15 < v.toNat) : selectCounter v s = setResult .refusedArg s := by
  unfold selectCounter
  rw [indexOfByte_eq_none h]

end

/-! ## Words and flags in the copies -/

/-- The words of a list, high byte first, are read back in pairs of bytes (R158). -/
theorem twoBytes_getD (ws : List Word16) (i : Nat) :
    ((ws.flatMap twoBytes).getD (2 * i) 0).toNat * 256 + ((ws.flatMap twoBytes).getD (2 * i + 1) 0).toNat =
      (ws.getD i 0).toNat := by
  induction ws generalizing i with
  | nil => simp
  | cons w ws ih =>
    cases i with
    | zero => exact toNat_hiByte_loByte rfl rfl
    | succ i => exact ih i

theorem loByte_flagNumber_getLsbD (bs : List Bool) {i : Nat} (hi : i < 8) :
    (loByte (BitVec.ofNat 16 (flagNumber bs))).getLsbD i = bs.getD i false := by
  rw [loByte_getLsbD _ hi, BitVec.getLsbD_ofNat, flagNumber_testBit, decide_eq_true (by omega), Bool.true_and]

theorem hiByte_flagNumber_getLsbD (bs : List Bool) {i : Nat} (hi : i < 8) :
    (hiByte (BitVec.ofNat 16 (flagNumber bs))).getLsbD i = bs.getD (i + 8) false := by
  rw [hiByte_getLsbD _ hi, BitVec.getLsbD_ofNat, flagNumber_testBit, decide_eq_true (by omega), Bool.true_and]

theorem map_allSixteen_getD {α : Type} (f : Fin 16 → α) (i : Fin 16) (d : α) :
    (allSixteen.map f).getD i.val d = f i := by
  simp [allSixteen]

theorem bufferOf_getElem {k : Nat} (bs : List Byte) {i : Nat} (hi : i < k) : (bufferOf k bs)[i] = bs.getD i 0 := by
  simp [bufferOf]

/-! ## The Service copy (Table 11-6) -/

theorem entryPresence_eq (e : ServiceEntry) (drv timer : Bool) : entryPresence e drv timer =
    byteOf (flagNumber [e.epoch.isSome, e.record.isSome, (e.record.bind fun r => r.mode.target).isSome,
      (e.record.bind fun r => r.window).isSome, e.wtr.isSome, e.retryHold.isSome, timer, drv]) := by
  refine congrArg byteOf ?_
  simp only [flagNumber]
  omega

theorem target_isSome_iff (o : Option ClaimRecord) :
    (o.bind fun r => r.mode.target).isSome = true ↔ ∃ r p, o = some r ∧ r.mode = .takeover p := by
  cases o with
  | none => simp
  | some r => cases h : r.mode <;> simp [h, ClaimMode.target]

theorem window_isSome_iff (o : Option ClaimRecord) :
    (o.bind fun r => r.window).isSome = true ↔ ∃ r w, o = some r ∧ r.window = some w := by
  cases o with
  | none => simp
  | some r => simp [Option.isSome_iff_exists]

theorem entryPresence_bits (e : ServiceEntry) (drv timer : Bool) {v : Byte} (h : v = entryPresence e drv timer) :
    v.getLsbD 0 = e.epoch.isSome ∧ v.getLsbD 1 = e.record.isSome ∧
      (v.getLsbD 2 = true ↔ ∃ r p, e.record = some r ∧ r.mode = .takeover p) ∧
      (v.getLsbD 3 = true ↔ ∃ r w, e.record = some r ∧ r.window = some w) ∧
      v.getLsbD 4 = e.wtr.isSome ∧ v.getLsbD 5 = e.retryHold.isSome ∧ v.getLsbD 6 = timer ∧ v.getLsbD 7 = drv := by
  rw [← target_isSome_iff, ← window_isSome_iff, h, entryPresence_eq]
  simp only [byteOf_flagNumber_getLsbD, Nat.reduceLT]
  exact ⟨rfl, rfl, Iff.rfl, Iff.rfl, rfl, rfl, rfl, rfl⟩

theorem HolderListing.code_eq (l : HolderListing) :
    l.code = bit (decide (l = .listed)) + 2 * bit (decide (l = .notListed)) := by
  cases l <;> rfl

theorem recordFlags_vacant {r : ClaimRecord} (hm : r.mode = .vacant) : recordFlags r =
    byteOf (flagNumber [false, decide (r.sent = some .sent), false, false, r.releaseHeard]) := by
  have hmode : decide (r.mode ≠ .vacant) = false := by simp [hm]
  have hbit : bit false = 0 := rfl
  refine congrArg byteOf ?_
  simp only [hmode, hbit, flagNumber, Bool.false_eq_true, if_false]
  omega

theorem recordFlags_takeover {r : ClaimRecord} (hm : r.mode ≠ .vacant) : recordFlags r =
    byteOf (flagNumber [true, decide (r.sent = some .sent), decide (r.listing = .listed),
      decide (r.listing = .notListed), r.releaseHeard]) := by
  have hmode : decide (r.mode ≠ .vacant) = true := decide_eq_true hm
  refine congrArg byteOf ?_
  simp only [hmode, flagNumber, if_true, HolderListing.code_eq]
  omega

theorem recordFlags_bits {r : ClaimRecord} {v : Byte} (h : v = recordFlags r) :
    v.getLsbD 0 = decide (r.mode ≠ .vacant) ∧ v.getLsbD 1 = decide (r.sent = some .sent) ∧
      (r.mode ≠ .vacant →
        v.getLsbD 2 = decide (r.listing = .listed) ∧ v.getLsbD 3 = decide (r.listing = .notListed)) ∧
      v.getLsbD 4 = r.releaseHeard ∧ v.toNat < 32 := by
  subst h
  by_cases hm : r.mode = .vacant
  · rw [recordFlags_vacant hm, decide_eq_false (not_not_intro hm)]
    simp only [byteOf_flagNumber_getLsbD, Nat.reduceLT]
    exact ⟨rfl, rfl, fun h => absurd hm h, rfl, byteOf_flagNumber_lt⟩
  · rw [recordFlags_takeover hm, decide_eq_true hm]
    simp only [byteOf_flagNumber_getLsbD, Nat.reduceLT]
    exact ⟨rfl, rfl, fun _ => ⟨rfl, rfl⟩, rfl, byteOf_flagNumber_lt⟩

/-- The bytes 23h to 2Ah of Table 11-6, after those of the record. -/
def State.serviceTail (s : State) (n : Service) : List Byte :=
  [optByte ((s.entry n).wtr.map fun w => byteOf w.seconds), optByte ((s.entry n).retryHold.map byteOf),
    hiByte (s.entry n).changed, loByte (s.entry n).changed,
    byteOf ((s.condition n).raw.code + 4 * (s.condition n).debounced.code + 16 * (s.condition n).request.code),
    (s.ownByte n).encode, hiByte (BitVec.ofNat 16 ((s.condition n).timer.getD 0)),
    loByte (BitVec.ofNat 16 ((s.condition n).timer.getD 0))]

section
variable (s : State) (n : Service)

theorem serviceBytes_eq : s.serviceBytes n =
    [byteOf (s.entry n).state.code, ((s.entry n).owner.map byteOfIndex).getD 0xFF, optByte (s.entry n).epoch,
      entryPresence (s.entry n) (look s.oc.drv n) (s.condition n).timer.isSome] ++
    (recordBytes (s.entry n).record ++ s.serviceTail n) := by
  simp only [State.serviceBytes, List.append_assoc]
  rfl

theorem recordBytes_length (o : Option ClaimRecord) : (recordBytes o).length = 6 := by cases o <;> rfl

theorem serviceBytes_record {k : Nat} (hk : k < 6) :
    (s.serviceBytes n).getD (4 + k) 0 = (recordBytes (s.entry n).record).getD k 0 := by
  rw [serviceBytes_eq, getD_past 4 rfl, List.getD_append _ _ _ _ (by rwa [recordBytes_length])]

theorem serviceBytes_tail (k : Nat) : (s.serviceBytes n).getD (10 + k) 0 = (s.serviceTail n).getD k 0 := by
  rw [serviceBytes_eq, show 10 + k = 4 + (6 + k) by omega, getD_past 4 rfl, getD_past 6 (recordBytes_length _)]

end

/-! ## The Peer copy (Table 11-8) -/

theorem peerBytes_own (s : State) : s.peerBytes s.station.ownId = 5 :: List.replicate 48 0 := by
  rw [State.peerBytes, State.copiedPeer, if_pos rfl, resetPeer, if_pos rfl]
  rfl

theorem copiedPeer_of_ne {s : State} {p : StationId} (h : p ≠ s.station.ownId) : s.copiedPeer p = s.peer p := if_neg h

/-- The bytes 4Eh to 5Ah of Table 11-8, before the published ones. -/
def PeerEntry.headBytes (e : PeerEntry) : List Byte :=
  [byteOf e.state.code,
    byteOf (flagNumber [e.lastSeq.isSome, e.silence.isSome, e.data.isSome, e.checksumSeen.isSome]), optByte e.lastSeq,
    optByte (e.silence.map byteOf), byteOf e.inOrder, hiByte (e.checksumSeen.getD 0), loByte (e.checksumSeen.getD 0),
    hiByte e.accepted, loByte e.accepted, hiByte e.lost, loByte e.lost, hiByte e.duplicates, loByte e.duplicates]

section
variable {s : State} {p : StationId} (h : p ≠ s.station.ownId)
include h

/-- Away from the own ID the copy is that of the entry. -/
theorem peerBytes_eq : s.peerBytes p = (s.peer p).headBytes ++ publishedBytes (s.peer p).data := by
  have hpresence : bit (s.peer p).lastSeq.isSome + 2 * bit (s.peer p).silence.isSome + 4 * bit (s.peer p).data.isSome +
        8 * bit (s.peer p).checksumSeen.isSome =
      flagNumber [(s.peer p).lastSeq.isSome, (s.peer p).silence.isSome, (s.peer p).data.isSome,
        (s.peer p).checksumSeen.isSome] := by
    simp only [flagNumber]
    omega
  rw [PeerEntry.headBytes, ← hpresence, State.peerBytes, copiedPeer_of_ne h]
  rfl

theorem peerBytes_head {k : Nat} (hk : k < 13) : (s.peerBytes p).getD k 0 = (s.peer p).headBytes.getD k 0 := by
  rw [peerBytes_eq h, List.getD_append _ _ _ _ hk]

theorem peerBytes_published (k : Nat) :
    (s.peerBytes p).getD (13 + k) 0 = (publishedBytes (s.peer p).data).getD k 0 := by
  rw [peerBytes_eq h, getD_past 13 rfl]

end

/-- Flags added up at their bits, from bit `k` on. -/
theorem foldl_flags_eq (f : Fin 16 → Bool) {ns : List (Fin 16)} {k : Nat} (acc : Nat)
    (h : ns.map Fin.val = List.range' k ns.length) :
    ns.foldl (fun w n => w + bit (f n) * 2 ^ n.val) acc = acc + 2 ^ k * flagNumber (ns.map f) := by
  induction ns generalizing k acc with
  | nil => rfl
  | cons n ns ih =>
    rw [List.map_cons, List.length_cons, List.range'_succ, List.cons.injEq] at h
    obtain ⟨hn, hns⟩ := h
    rw [List.foldl_cons, ih _ hns, hn, List.map_cons, flagNumber]
    ring

theorem heldFlags_eq (f : Service → Bool) :
    allSixteen.foldl (fun w n => w + bit (f n) * 2 ^ n.val) 0 = flagNumber (allSixteen.map f) := by
  rw [foldl_flags_eq f 0 (k := 0) (by decide), Nat.zero_add, Nat.pow_zero, Nat.one_mul]

section
variable (b : StatusBody) (m : Service)

/-- The listed services of a STATUS, by service. -/
def StatusBody.listedFlags (b : StatusBody) : List Bool := allSixteen.map fun n => (b.listing n).isSome

theorem publishedBytes_eq : publishedBytes (some b) =
    [byteOf b.phase.code, byteOf (bit b.isolated)] ++ (b.services.toList.map ServiceByte.encode ++
      ([hiByte (BitVec.ofNat 16 (flagNumber b.listedFlags)), loByte (BitVec.ofNat 16 (flagNumber b.listedFlags))] ++
        allSixteen.map fun n => optByte (b.listing n))) := by
  have hheld : (fun n => decide (b.listing n ≠ none)) = fun n => (b.listing n).isSome := by
    funext n
    cases b.listing n <;> rfl
  simp only [publishedBytes, heldFlags_eq, hheld, List.append_assoc]
  rfl

theorem publishedBytes_service : (publishedBytes (some b)).getD (2 + m.val) 0 = (look b.services m).encode := by
  rw [publishedBytes_eq, getD_past 2 rfl, List.getD_append _ _ _ _ (by simp)]
  simp [look]

theorem publishedBytes_flags :
    (publishedBytes (some b)).getD 18 0 = hiByte (BitVec.ofNat 16 (flagNumber b.listedFlags)) ∧
      (publishedBytes (some b)).getD 19 0 = loByte (BitVec.ofNat 16 (flagNumber b.listedFlags)) := by
  rw [publishedBytes_eq, show 18 = 2 + (16 + 0) from rfl, show 19 = 2 + (16 + 1) from rfl, getD_past 2 rfl,
    getD_past 2 rfl, getD_past 16 (by simp), getD_past 16 (by simp)]
  exact ⟨rfl, rfl⟩

/-- The flag of service `m` stands in the second byte for services 0 to 7, and in the first one for 8 to 15. -/
theorem publishedBytes_listed :
    (m.val < 8 → ((publishedBytes (some b)).getD 19 0).getLsbD m.val = (b.listing m).isSome) ∧
      (8 ≤ m.val → ((publishedBytes (some b)).getD 18 0).getLsbD (m.val - 8) = (b.listing m).isSome) := by
  obtain ⟨hhi, hlo⟩ := publishedBytes_flags b
  have hflag : b.listedFlags.getD m.val false = (b.listing m).isSome := map_allSixteen_getD _ m _
  refine ⟨fun hm => ?_, fun hm => ?_⟩
  · rw [hlo, loByte_flagNumber_getLsbD _ hm, hflag]
  · rw [hhi, hiByte_flagNumber_getLsbD _ (by omega), Nat.sub_add_cancel hm, hflag]

theorem publishedBytes_epoch : (publishedBytes (some b)).getD (20 + m.val) 0 = (b.listing m).getD 0 := by
  rw [publishedBytes_eq, show 20 + m.val = 2 + (16 + (2 + m.val)) by omega, getD_past 2 rfl,
    getD_past 16 (by simp), getD_past 2 rfl, map_allSixteen_getD, optByte]

end

/-! ## The Counter copy (Table 11-5) -/

theorem counterBytes_eq (s : State) (n : StationId) : s.counterBytes n =
    ([s.rx.goodFrames, s.rx.codeErrors, s.rx.crcErrors, s.rx.formatErrors, s.tx.framesSent, s.tx.collisions,
      s.tx.deafAttempts, s.tx.giveUps, s.peers.clashCount,
      if n = s.station.ownId then 0 else (s.peer n).accepted,
      if n = s.station.ownId then 0 else (s.peer n).lost,
      if n = s.station.ownId then 0 else (s.peer n).duplicates] : List Word16).flatMap twoBytes := by
  by_cases hn : n = s.station.ownId
  · rw [State.counterBytes, State.copiedPeer, if_pos hn, if_pos hn, if_pos hn, if_pos hn]
    rfl
  · rw [State.counterBytes, State.copiedPeer, if_neg hn, if_neg hn, if_neg hn, if_neg hn]
    rfl

/-! ## The copies -/

/-- Settles O56: each byte of a copy is read at its place in the list that the select makes. -/
theorem snapshotSelects : Obligations.SnapshotSelects := by
  unfold Obligations.SnapshotSelects
  intro grade serviceByte condition s v
  have hservice : ∀ b : ServiceByte, b.encode = serviceByte b := by
    rintro ⟨g, c, r⟩
    cases g <;> cases c <;> rfl
  have hcondition : ∀ c : Condition, c.code = condition c := by
    intro c
    cases c <;> rfl
  refine ⟨fun n hn => ⟨fun htxn => ⟨_, bufferOf 18 (s.serviceBytes n),
      congrArg Host.Outcome.next (dataByte_done htxn (selectService_of_index hn) rfl), rfl, ?service⟩,
    fun htxn => ⟨_, bufferOf 49 (s.peerBytes n),
      congrArg Host.Outcome.next (dataByte_done htxn (selectPeer_of_index hn) rfl), rfl, ?peer⟩,
    fun htxn => ⟨_, bufferOf 24 (s.counterBytes n),
      congrArg Host.Outcome.next (dataByte_done htxn (selectCounter_of_index hn) rfl), rfl, ?counter⟩⟩,
    fun hv => ⟨fun htxn => congrArg Host.Outcome.next (dataByte_answered htxn (selectService_refused hv)),
      fun htxn => congrArg Host.Outcome.next (dataByte_answered htxn (selectPeer_refused hv)),
      fun htxn => congrArg Host.Outcome.next (dataByte_answered htxn (selectCounter_refused hv))⟩⟩
  case service =>
    have hrecord := fun k (hk : k < 6) => serviceBytes_record s n hk
    have htail := serviceBytes_tail s n
    intro e c
    simp only [bufferOf_getElem]
    refine ⟨?state, ?owner, rfl, entryPresence_bits e (look s.oc.drv n) c.timer.isSome rfl, fun hr => ?noRecord,
      fun r hr => ?record, (htail 0).trans ?wtr, (htail 1).trans (optByte_byteOf _),
      toNat_hiByte_loByte (htail 2) (htail 3), (htail 4).trans ?conditions, (htail 5).trans (hservice _),
      toNat_hiByte_loByte (htail 6) (htail 7)⟩
    case state =>
      show byteOf e.state.code = _
      cases e.state <;> rfl
    case owner =>
      show (e.owner.map byteOfIndex).getD 0xFF = _
      cases e.owner <;> rfl
    case noRecord =>
      rw [show (s.entry n).record = none from hr] at hrecord
      exact ⟨hrecord 0 (by decide), hrecord 1 (by decide), hrecord 2 (by decide), hrecord 3 (by decide),
        hrecord 4 (by decide), hrecord 5 (by decide)⟩
    case record =>
      rw [show (s.entry n).record = some r from hr] at hrecord
      refine ⟨hrecord 0 (by decide), hrecord 1 (by decide), recordFlags_bits (hrecord 2 (by decide)),
        (hrecord 3 (by decide)).trans (hservice _), (hrecord 4 (by decide)).trans ?_,
        (hrecord 5 (by decide)).trans (optByte_byteOf _)⟩
      show optByte (r.mode.target.map byteOfIndex) = _
      cases r.mode <;> rfl
    case wtr =>
      show optByte (e.wtr.map fun w => byteOf w.seconds) = _
      cases e.wtr <;> rfl
    case conditions =>
      rw [← hcondition, ← hcondition]
      show byteOf (c.raw.code + 4 * c.debounced.code + 16 * c.request.code) = _
      cases c.request <;> rfl
  case peer =>
    simp only [bufferOf_getElem]
    refine ⟨fun hown => ?own, fun hne => ?other⟩
    case own =>
      subst hown
      rw [peerBytes_own]
      exact ⟨rfl, fun i => List.getD_replicate 0 i.isLt⟩
    case other =>
      have hpublished := peerBytes_published hne
      have hhead := fun k (hk : k < 13) => peerBytes_head hne hk
      refine ⟨(hhead 0 (by decide)).trans ?state, byteOf_fourFlags (hhead 1 (by decide)), hhead 2 (by decide),
        (hhead 3 (by decide)).trans (optByte_byteOf _), hhead 4 (by decide),
        toNat_hiByte_loByte (hhead 5 (by decide)) (hhead 6 (by decide)),
        toNat_hiByte_loByte (hhead 7 (by decide)) (hhead 8 (by decide)),
        toNat_hiByte_loByte (hhead 9 (by decide)) (hhead 10 (by decide)),
        toNat_hiByte_loByte (hhead 11 (by decide)) (hhead 12 (by decide)), fun hb i => ?absent, fun b hb => ?published⟩
      case state =>
        show byteOf (s.peer n).state.code = _
        cases (s.peer n).state <;> rfl
      case absent =>
        rw [show (s.peer n).data = none from hb] at hpublished
        rw [Nat.add_comm, hpublished]
        exact List.getD_replicate 0 i.isLt
      case published =>
        rw [show (s.peer n).data = some b from hb] at hpublished
        refine ⟨(hpublished 0).trans ?phase, (hpublished 1).trans ?isolated, fun m => ⟨?services, ?epochs, ?flags⟩⟩
        case phase =>
          show byteOf b.phase.code = _
          cases b.phase <;> rfl
        case isolated =>
          show byteOf (bit b.isolated) = _
          cases b.isolated <;> rfl
        case services =>
          rw [show m.val + 15 = 13 + (2 + m.val) by omega, hpublished, publishedBytes_service, hservice]
        case epochs =>
          rw [show m.val + 33 = 13 + (20 + m.val) by omega, hpublished, publishedBytes_epoch]
        case flags =>
          rw [hpublished 19, hpublished 18]
          exact publishedBytes_listed b m
  case counter =>
    intro i
    simp only [bufferOf_getElem, counterBytes_eq]
    exact twoBytes_getD _ i.val

end Sys2Proof.Machine

/-! A step and the queue of waiting commands: the command at the front, and the empty queue (log entry 3). -/

namespace Sys2Proof.Machine

/-- The queue set last is the one that waits. -/
@[simp] theorem withPending_withPending (s : State) (cs ds : List Instr) :
    (s.withPending cs).withPending ds = s.withPending ds := rfl

theorem step_of_pending_nil {s : State} (h : s.pending = []) : step s = .next s := by
  rw [step, h]

theorem step_of_pending_cons {s : State} {c : Instr} {rest : List Instr} (h : s.pending = c :: rest) :
    step s = exec c (s.withPending rest) := by
  rw [step, h]

/-- Settles O1, one part for each form of the queue: the command in front is gone from the queue when it runs, and
`withPending_withPending` leaves the rest alone. -/
theorem stepRunsFrontCommand : Obligations.StepRunsFrontCommand := by
  refine ⟨fun c rest s => ?front, fun s hidle => step_of_pending_nil hidle⟩
  case front =>
    calc step (s.withPending (c :: rest))
      _ = exec c ((s.withPending (c :: rest)).withPending rest) := step_of_pending_cons (withPending_pending s _)
      _ = exec c (s.withPending rest) := by rw [withPending_withPending]

end Sys2Proof.Machine
